-- ==== Sys2Proof/Word.lean ====
section
/-! DEFINITION. The machine's word types and register numbers (00_scope.md R12, R15, R16). -/

namespace Sys2Proof

/-- 8 bits: the unit of the byte-addressed space (R12, R15). -/
abbrev Byte := BitVec 8

/-- 16 bits: the `W` suffix of the mnemonics (R15). -/
abbrev Half := BitVec 16

/-- 32 bits: a D-word, a register, an address, an instruction word (R12, R15). -/
abbrev Word := BitVec 32

/-- A general register's number, 0 to 15 (R30, R104). -/
abbrev Reg := Fin 16

/-- Y, the multiply and divide high word: `x[11]` (R31, R34). -/
abbrev Reg.y : Reg := 11

/-- BP, the base pointer: `x[12]` (R31). -/
abbrev Reg.bp : Reg := 12

/-- SP, the stack pointer: `x[13]` (R31, R35). -/
abbrev Reg.sp : Reg := 13

/-- IA, the interrupt vector table base: `x[14]` (R31, R36). -/
abbrev Reg.ia : Reg := 14

/-- FLAGS, the status and control register: `x[15]` (R31, R37). -/
abbrev Reg.flags : Reg := 15

end Sys2Proof
end

