-- ==== Sys2Proof/Config.lean ====
section
/-! DEFINITION. What an implementation or a platform fixes: the reset entry point, the byte that memory nothing
has written reads as, and the host's clock. The named parameters of 00_scope.md R14 are each fixed at the spec's
default inside the definition that would read them; NOTES.md, `## Assumptions`, lists them one by one. -/

namespace Sys2Proof

/-- The reset program counter (00_scope.md R12, 10_state.md R59). -/
def Config.resetPc : Word := 0x00100000#32

/-- What a byte of memory that nothing has written reads as: its launch content (20_memory.md R74).
DESIGN CHOICE, unsafe (log entry 1): the spec gives RAM no launch content, its vectors start from zeroed memory. -/
def Config.unlistedByte : Byte := 0x00#8

/-- `cpu_clock`, the core's configured frequency in Hz (00_scope.md R13): it paces the host only, no rule reads
it, and nothing is known of its value here. -/
opaque Config.cpuClock : Nat

end Sys2Proof
end

