-- ==== Sys2Proof/Syntax.lean ====
section
/-! DEFINITION. Instructions as data: one constructor for each row of spec/opcode_table.json (30_encoding.md R117
to R121). Register numbers and literals are already cut out of the words; no encoding is left here. -/

namespace Sys2Proof

/-- The four encoding families (30_encoding.md R101). -/
inductive Family where
  | p3 | p2 | p1 | np
deriving DecidableEq, Repr

/-- The operand `RN` of a P3, P2 or P1 instruction (00_scope.md R21, 30_encoding.md R110 to R114). -/
inductive Operand where
  /-- L = 0: a register. -/
  | reg (r : Reg)
  /-- L = 1, a literal held in the word's own field; `v` is its sign-extended 32-bit value. -/
  | lit (v : Word)
  /-- L = 1, the escape: the literal is the continuation word, taken as it stands. -/
  | long (v : Word)
deriving DecidableEq, Repr

/-- The instructions. P3: `rd`, `rs`, `RN`; P2: `rd`, `RN`; P1: `RN`; NP: none (30_encoding.md R124). The four
`unknown…` rows carry the opcode field that names no instruction (R121), with the operands every word of the
family has. -/
inductive Instr where
  | and (rd rs : Reg) (rn : Operand)
  | or (rd rs : Reg) (rn : Operand)
  | xor (rd rs : Reg) (rn : Operand)
  | bitc (rd rs : Reg) (rn : Operand)
  | add (rd rs : Reg) (rn : Operand)
  | addc (rd rs : Reg) (rn : Operand)
  | sub (rd rs : Reg) (rn : Operand)
  | subb (rd rs : Reg) (rn : Operand)
  | rsb (rd rs : Reg) (rn : Operand)
  | rsbb (rd rs : Reg) (rn : Operand)
  | lls (rd rs : Reg) (rn : Operand)
  | rls (rd rs : Reg) (rn : Operand)
  | ars (rd rs : Reg) (rn : Operand)
  | rotl (rd rs : Reg) (rn : Operand)
  | rotr (rd rs : Reg) (rn : Operand)
  | mul (rd rs : Reg) (rn : Operand)
  | smul (rd rs : Reg) (rn : Operand)
  | div (rd rs : Reg) (rn : Operand)
  | sdiv (rd rs : Reg) (rn : Operand)
  | load (rd rs : Reg) (rn : Operand)
  | loadw (rd rs : Reg) (rn : Operand)
  | loadb (rd rs : Reg) (rn : Operand)
  | store (rd rs : Reg) (rn : Operand)
  | storew (rd rs : Reg) (rn : Operand)
  | storeb (rd rs : Reg) (rn : Operand)
  | mov (rd : Reg) (rn : Operand)
  | swp (rd : Reg) (rn : Operand)
  | sigxb (rd : Reg) (rn : Operand)
  | sigxw (rd : Reg) (rn : Operand)
  | not (rd : Reg) (rn : Operand)
  | load2 (rd : Reg) (rn : Operand)
  | loadw2 (rd : Reg) (rn : Operand)
  | loadb2 (rd : Reg) (rn : Operand)
  | store2 (rd : Reg) (rn : Operand)
  | storew2 (rd : Reg) (rn : Operand)
  | storeb2 (rd : Reg) (rn : Operand)
  | jmp2 (rd : Reg) (rn : Operand)
  | call2 (rd : Reg) (rn : Operand)
  | ifeq (rd : Reg) (rn : Operand)
  | ifneq (rd : Reg) (rn : Operand)
  | ifl (rd : Reg) (rn : Operand)
  | ifsl (rd : Reg) (rn : Operand)
  | ifle (rd : Reg) (rn : Operand)
  | ifsle (rd : Reg) (rn : Operand)
  | ifbits (rd : Reg) (rn : Operand)
  | ifclear (rd : Reg) (rn : Operand)
  | xchgb (rn : Operand)
  | xchgw (rn : Operand)
  | getpc (rn : Operand)
  | pop (rn : Operand)
  | push (rn : Operand)
  | jmp (rn : Operand)
  | call (rn : Operand)
  | rjmp (rn : Operand)
  | rcall (rn : Operand)
  | int (rn : Operand)
  | sleep
  | ret
  | rfi
  | unknownP3 (op : BitVec 6) (rd rs : Reg) (rn : Operand)
  | unknownP2 (op : BitVec 7) (rd : Reg) (rn : Operand)
  | unknownP1 (op : BitVec 5) (rn : Operand)
  | unknownNP (op : BitVec 28)
deriving DecidableEq, Repr

end Sys2Proof
end

