-- ==== Sys2Proof/WellFormed.lean ====
section
/-! DEFINITION. Which instructions some word stands for: an in-word literal fits its family's field and is not the
escape value (30_encoding.md R111, R113), and an unknown opcode is one that R117 to R120 do not name. -/

namespace Sys2Proof

/-- The escape value of the 13-bit P3 literal field (30_encoding.md R110, R111). -/
def p3Sentinel : BitVec 13 := 0x1000#13

/-- The escape value of the 18-bit P2 literal field. -/
def p2Sentinel : BitVec 18 := 0x20000#18

/-- The escape value of the 23-bit P1 literal field (the source's "LIT22", R108). -/
def p1Sentinel : BitVec 23 := 0x400000#23

/-- An in-word literal is the sign extension of some field value that is not the escape (R111, R113). -/
def Operand.fits {n : Nat} (sentinel : BitVec n) : Operand → Bool
  | .reg _ => true
  | .lit v => decide ((v.setWidth n).signExtend 32 = v) && decide (v.setWidth n ≠ sentinel)
  | .long _ => true

/-- The 6-bit P3 opcodes that name no instruction: top bytes 0x59 to 0x7F (R117). -/
def unknownP3Op (op : BitVec 6) : Bool := decide (0x19 ≤ op.toNat)

/-- The 7-bit P2 opcodes that name no instruction: top bytes 0x8D to 0x9F and 0xA8 to 0xFF (R118). -/
def unknownP2Op (op : BitVec 7) : Bool :=
  decide (0x0D ≤ op.toNat ∧ op.toNat ≤ 0x1F ∨ 0x28 ≤ op.toNat)

/-- The 5-bit P1 opcodes that name no instruction: top bytes 0x23, 0x24 and 0x2C to 0x3F (R119). -/
def unknownP1Op (op : BitVec 5) : Bool :=
  decide (op.toNat = 0x03 ∨ op.toNat = 0x04 ∨ 0x0C ≤ op.toNat)

/-- The 28-bit NP opcodes that name no instruction: all but 0, 1 and 2 (R120). -/
def unknownNPOp (op : BitVec 28) : Bool := decide (3 ≤ op.toNat)

/-- Some word (with its continuation word) decodes to this instruction. -/
def Instr.wf : Instr → Bool
  | .and _ _ rn | .or _ _ rn | .xor _ _ rn | .bitc _ _ rn | .add _ _ rn | .addc _ _ rn | .sub _ _ rn
  | .subb _ _ rn | .rsb _ _ rn | .rsbb _ _ rn | .lls _ _ rn | .rls _ _ rn | .ars _ _ rn | .rotl _ _ rn
  | .rotr _ _ rn | .mul _ _ rn | .smul _ _ rn | .div _ _ rn | .sdiv _ _ rn | .load _ _ rn | .loadw _ _ rn
  | .loadb _ _ rn | .store _ _ rn | .storew _ _ rn | .storeb _ _ rn => rn.fits p3Sentinel
  | .mov _ rn | .swp _ rn | .sigxb _ rn | .sigxw _ rn | .not _ rn | .load2 _ rn | .loadw2 _ rn | .loadb2 _ rn
  | .store2 _ rn | .storew2 _ rn | .storeb2 _ rn | .jmp2 _ rn | .call2 _ rn | .ifeq _ rn | .ifneq _ rn
  | .ifl _ rn | .ifsl _ rn | .ifle _ rn | .ifsle _ rn | .ifbits _ rn | .ifclear _ rn => rn.fits p2Sentinel
  | .xchgb rn | .xchgw rn | .getpc rn | .pop rn | .push rn | .jmp rn | .call rn | .rjmp rn | .rcall rn
  | .int rn => rn.fits p1Sentinel
  | .sleep | .ret | .rfi => true
  | .unknownP3 op _ _ rn => unknownP3Op op && rn.fits p3Sentinel
  | .unknownP2 op _ rn => unknownP2Op op && rn.fits p2Sentinel
  | .unknownP1 op rn => unknownP1Op op && rn.fits p1Sentinel
  | .unknownNP op => unknownNPOp op

end Sys2Proof
end

