-- ==== Sys2Proof/Decode.lean ====
section
/-! DEFINITION. From bytes to instructions and back (30_encoding.md): byte order, the family and length tests, field
extraction, the decoder (total: R101, R121) and, after it, the encoder, both written from the tables R117 to R120.

Bits that R104 to R107 and R109 call ignored are read by nothing; the encoder writes 0 there. -/

namespace Sys2Proof

/-! ### Byte order -/

/-- The 32-bit value whose byte 0, the least significant, is `b0` (20_memory.md R72). -/
def wordOfBytes (b0 b1 b2 b3 : Byte) : Word := b3 ++ b2 ++ b1 ++ b0

/-- Byte `i` of a value: bits `8i+7` to `8i` (00_scope.md R19). -/
def Word.byte (v : Word) (i : Nat) : Byte := v.extractLsb' (8 * i) 8

/-- The four bytes of a value in memory order. -/
def bytesOfWord (v : Word) : List Byte := [Word.byte v 0, Word.byte v 1, Word.byte v 2, Word.byte v 3]

/-! ### Family, literal flag and length -/

/-- The family the top bits select (R101): P3 is `inst[31:30] = 01`, words with top bits 011 among them. -/
def family (w : Word) : Family :=
  if w.getLsbD 31 then .p2 else if w.getLsbD 30 then .p3 else if w.getLsbD 29 then .p1 else .np

/-- The literal flag L, bit 23 of a P3, P2 or P1 word (R114). -/
def literalFlag (w : Word) : Bool := w.getLsbD 23

/-- LIT13, bits 22 to 10 of a P3 word; its low four bits are the RN register when L = 0 (R102, R105). -/
def p3Field (w : Word) : BitVec 13 := w.extractLsb' 10 13

/-- LIT18, bits 22 to 5 of a P2 word; its low four bits are the RN register when L = 0 (R103, R106). -/
def p2Field (w : Word) : BitVec 18 := w.extractLsb' 5 18

/-- The 23-bit literal field of a P1 word, bits 22 to 0; its low four bits are the RN register when L = 0 (R107, R108). -/
def p1Field (w : Word) : BitVec 23 := w.extractLsb' 0 23

/-- The length test, from the first word alone and whatever its opcode: does a continuation word follow (R115)? -/
def hasContinuation (w : Word) : Bool :=
  match family w with
  | .p3 => literalFlag w && decide (p3Field w = p3Sentinel)
  | .p2 => literalFlag w && decide (p2Field w = p2Sentinel)
  | .p1 => literalFlag w && decide (p1Field w = p1Sentinel)
  | .np => false

/-- The chain-skip set: the eight IFxx opcodes, top bytes 0xA0 to 0xA7 (R123). -/
def inChainSkipSet (w : Word) : Bool :=
  decide (0xA0 ≤ (w.extractLsb' 24 8).toNat ∧ (w.extractLsb' 24 8).toNat ≤ 0xA7)

/-! ### Decoding -/

/-- The operand `RN` (R105 to R107, R110 to R112): a register, a sign-extended field, or the continuation word. -/
def decodeOperand {n : Nat} (sentinel : BitVec n) (literal : Bool) (field : BitVec n) (continuation : Word) : Operand :=
  if literal then
    if field = sentinel then .long continuation else .lit (field.signExtend 32)
  else .reg (field.setWidth 4).toFin

/-- RD: bits 3 to 0 (R104, R105, R106). -/
def rdField (w : Word) : Reg := (w.extractLsb' 0 4).toFin

/-- RS of a P3 word: bits 8 to 5 (R105). -/
def rsField (w : Word) : Reg := (w.extractLsb' 5 4).toFin

/-- The P3 opcode table (R117). -/
def decodeP3 (op : BitVec 6) (rd rs : Reg) (rn : Operand) : Instr :=
  match op.toNat with
  | 0x00 => .and rd rs rn
  | 0x01 => .or rd rs rn
  | 0x02 => .xor rd rs rn
  | 0x03 => .bitc rd rs rn
  | 0x04 => .add rd rs rn
  | 0x05 => .addc rd rs rn
  | 0x06 => .sub rd rs rn
  | 0x07 => .subb rd rs rn
  | 0x08 => .rsb rd rs rn
  | 0x09 => .rsbb rd rs rn
  | 0x0A => .lls rd rs rn
  | 0x0B => .rls rd rs rn
  | 0x0C => .ars rd rs rn
  | 0x0D => .rotl rd rs rn
  | 0x0E => .rotr rd rs rn
  | 0x0F => .mul rd rs rn
  | 0x10 => .smul rd rs rn
  | 0x11 => .div rd rs rn
  | 0x12 => .sdiv rd rs rn
  | 0x13 => .load rd rs rn
  | 0x14 => .loadw rd rs rn
  | 0x15 => .loadb rd rs rn
  | 0x16 => .store rd rs rn
  | 0x17 => .storew rd rs rn
  | 0x18 => .storeb rd rs rn
  | _ => .unknownP3 op rd rs rn

/-- The P2 opcode table (R118). -/
def decodeP2 (op : BitVec 7) (rd : Reg) (rn : Operand) : Instr :=
  match op.toNat with
  | 0x00 => .mov rd rn
  | 0x01 => .swp rd rn
  | 0x02 => .sigxb rd rn
  | 0x03 => .sigxw rd rn
  | 0x04 => .not rd rn
  | 0x05 => .load2 rd rn
  | 0x06 => .loadw2 rd rn
  | 0x07 => .loadb2 rd rn
  | 0x08 => .store2 rd rn
  | 0x09 => .storew2 rd rn
  | 0x0A => .storeb2 rd rn
  | 0x0B => .jmp2 rd rn
  | 0x0C => .call2 rd rn
  | 0x20 => .ifeq rd rn
  | 0x21 => .ifneq rd rn
  | 0x22 => .ifl rd rn
  | 0x23 => .ifsl rd rn
  | 0x24 => .ifle rd rn
  | 0x25 => .ifsle rd rn
  | 0x26 => .ifbits rd rn
  | 0x27 => .ifclear rd rn
  | _ => .unknownP2 op rd rn

/-- The P1 opcode table (R119). -/
def decodeP1 (op : BitVec 5) (rn : Operand) : Instr :=
  match op.toNat with
  | 0x00 => .xchgb rn
  | 0x01 => .xchgw rn
  | 0x02 => .getpc rn
  | 0x05 => .pop rn
  | 0x06 => .push rn
  | 0x07 => .jmp rn
  | 0x08 => .call rn
  | 0x09 => .rjmp rn
  | 0x0A => .rcall rn
  | 0x0B => .int rn
  | _ => .unknownP1 op rn

/-- The NP opcode table (R120). -/
def decodeNP (op : BitVec 28) : Instr :=
  match op.toNat with
  | 0 => .sleep
  | 1 => .ret
  | 2 => .rfi
  | _ => .unknownNP op

/-- The instruction of a word and of the continuation word that follows it; the latter counts only where
`hasContinuation` holds of the former (R101 to R110). -/
def decodeWords (w continuation : Word) : Instr :=
  match family w with
  | .p3 => decodeP3 (w.extractLsb' 24 6) (rdField w) (rsField w)
      (decodeOperand p3Sentinel (literalFlag w) (p3Field w) continuation)
  | .p2 => decodeP2 (w.extractLsb' 24 7) (rdField w)
      (decodeOperand p2Sentinel (literalFlag w) (p2Field w) continuation)
  | .p1 => decodeP1 (w.extractLsb' 24 5) (decodeOperand p1Sentinel (literalFlag w) (p1Field w) continuation)
  | .np => decodeNP (w.extractLsb' 0 28)

/-- Why bytes are no instruction. No word is one of them (R121): only bytes that end too early are. -/
inductive DecodeRefusal where
  /-- Fewer than four bytes. -/
  | noWord
  /-- The word says that a continuation word follows, and fewer than four more bytes do. -/
  | noContinuation
deriving DecidableEq, Repr

/-- Decode the instruction at the front of a list of bytes; the answer holds it and the bytes left (R100, R115). -/
def decode : List Byte → Except DecodeRefusal (Instr × List Byte)
  | b0 :: b1 :: b2 :: b3 :: rest =>
    let w := wordOfBytes b0 b1 b2 b3
    if hasContinuation w then
      match rest with
      | c0 :: c1 :: c2 :: c3 :: rest' => .ok (decodeWords w (wordOfBytes c0 c1 c2 c3), rest')
      | _ => .error .noContinuation
    else .ok (decodeWords w 0#32, rest)
  | _ => .error .noWord

/-- The eight bytes, in memory order, of an instruction whose bits are `w` counted from the first word's bit 0; bits
from `nbits` up are 0. -/
def tableBytes (nbits w : Nat) : List Byte :=
  let v := BitVec.ofNat 64 (w % 2 ^ nbits)
  bytesOfWord (v.extractLsb' 0 32) ++ bytesOfWord (v.extractLsb' 32 32)

/-- The instruction read from a row's bits, numbered as spec/opcode_table.json numbers them. -/
def decodeTableWord (nbits w : Nat) : Option Instr :=
  match decode (tableBytes nbits w) with
  | .ok (i, _) => some i
  | .error _ => none

/-! ### Encoding -/

/-- L for an operand (R114). -/
def Operand.literal : Operand → Bool
  | .reg _ => false
  | .lit _ => true
  | .long _ => true

/-- The operand's field bits: a register number, the literal's low bits, or the escape (R110, R125). -/
def Operand.field {n : Nat} (sentinel : BitVec n) : Operand → BitVec n
  | .reg r => BitVec.ofNat n r.val
  | .lit v => v.setWidth n
  | .long _ => sentinel

/-- The words after the first (R100). -/
def Operand.continuation : Operand → List Word
  | .reg _ => []
  | .lit _ => []
  | .long v => [v]

/-- A register number's four bits (R104). -/
def regBits (r : Reg) : BitVec 4 := BitVec.ofNat 4 r.val

/-- A P3 word (R102). -/
def p3Word (op : BitVec 6) (rd rs : Reg) (rn : Operand) : Word :=
  0b01#2 ++ op ++ BitVec.ofBool rn.literal ++ rn.field p3Sentinel ++ 0#1 ++ regBits rs ++ 0#1 ++ regBits rd

/-- A P2 word (R103). -/
def p2Word (op : BitVec 7) (rd : Reg) (rn : Operand) : Word :=
  0b1#1 ++ op ++ BitVec.ofBool rn.literal ++ rn.field p2Sentinel ++ 0#1 ++ regBits rd

/-- A P1 word (R108). -/
def p1Word (op : BitVec 5) (rn : Operand) : Word :=
  0b001#3 ++ op ++ BitVec.ofBool rn.literal ++ rn.field p1Sentinel

/-- An NP word, bit 28 written as 0 (R109). -/
def npWord (op : BitVec 28) : Word := 0b000#3 ++ 0#1 ++ op

/-- A P3 instruction's words. -/
def encodeP3 (op : BitVec 6) (rd rs : Reg) (rn : Operand) : List Word := p3Word op rd rs rn :: rn.continuation

/-- A P2 instruction's words. -/
def encodeP2 (op : BitVec 7) (rd : Reg) (rn : Operand) : List Word := p2Word op rd rn :: rn.continuation

/-- A P1 instruction's words. -/
def encodeP1 (op : BitVec 5) (rn : Operand) : List Word := p1Word op rn :: rn.continuation

/-- The words of a well-formed instruction, with the opcodes of R117 to R120. -/
def encode : Instr → List Word
  | .and rd rs rn => encodeP3 0x00#6 rd rs rn
  | .or rd rs rn => encodeP3 0x01#6 rd rs rn
  | .xor rd rs rn => encodeP3 0x02#6 rd rs rn
  | .bitc rd rs rn => encodeP3 0x03#6 rd rs rn
  | .add rd rs rn => encodeP3 0x04#6 rd rs rn
  | .addc rd rs rn => encodeP3 0x05#6 rd rs rn
  | .sub rd rs rn => encodeP3 0x06#6 rd rs rn
  | .subb rd rs rn => encodeP3 0x07#6 rd rs rn
  | .rsb rd rs rn => encodeP3 0x08#6 rd rs rn
  | .rsbb rd rs rn => encodeP3 0x09#6 rd rs rn
  | .lls rd rs rn => encodeP3 0x0A#6 rd rs rn
  | .rls rd rs rn => encodeP3 0x0B#6 rd rs rn
  | .ars rd rs rn => encodeP3 0x0C#6 rd rs rn
  | .rotl rd rs rn => encodeP3 0x0D#6 rd rs rn
  | .rotr rd rs rn => encodeP3 0x0E#6 rd rs rn
  | .mul rd rs rn => encodeP3 0x0F#6 rd rs rn
  | .smul rd rs rn => encodeP3 0x10#6 rd rs rn
  | .div rd rs rn => encodeP3 0x11#6 rd rs rn
  | .sdiv rd rs rn => encodeP3 0x12#6 rd rs rn
  | .load rd rs rn => encodeP3 0x13#6 rd rs rn
  | .loadw rd rs rn => encodeP3 0x14#6 rd rs rn
  | .loadb rd rs rn => encodeP3 0x15#6 rd rs rn
  | .store rd rs rn => encodeP3 0x16#6 rd rs rn
  | .storew rd rs rn => encodeP3 0x17#6 rd rs rn
  | .storeb rd rs rn => encodeP3 0x18#6 rd rs rn
  | .mov rd rn => encodeP2 0x00#7 rd rn
  | .swp rd rn => encodeP2 0x01#7 rd rn
  | .sigxb rd rn => encodeP2 0x02#7 rd rn
  | .sigxw rd rn => encodeP2 0x03#7 rd rn
  | .not rd rn => encodeP2 0x04#7 rd rn
  | .load2 rd rn => encodeP2 0x05#7 rd rn
  | .loadw2 rd rn => encodeP2 0x06#7 rd rn
  | .loadb2 rd rn => encodeP2 0x07#7 rd rn
  | .store2 rd rn => encodeP2 0x08#7 rd rn
  | .storew2 rd rn => encodeP2 0x09#7 rd rn
  | .storeb2 rd rn => encodeP2 0x0A#7 rd rn
  | .jmp2 rd rn => encodeP2 0x0B#7 rd rn
  | .call2 rd rn => encodeP2 0x0C#7 rd rn
  | .ifeq rd rn => encodeP2 0x20#7 rd rn
  | .ifneq rd rn => encodeP2 0x21#7 rd rn
  | .ifl rd rn => encodeP2 0x22#7 rd rn
  | .ifsl rd rn => encodeP2 0x23#7 rd rn
  | .ifle rd rn => encodeP2 0x24#7 rd rn
  | .ifsle rd rn => encodeP2 0x25#7 rd rn
  | .ifbits rd rn => encodeP2 0x26#7 rd rn
  | .ifclear rd rn => encodeP2 0x27#7 rd rn
  | .xchgb rn => encodeP1 0x00#5 rn
  | .xchgw rn => encodeP1 0x01#5 rn
  | .getpc rn => encodeP1 0x02#5 rn
  | .pop rn => encodeP1 0x05#5 rn
  | .push rn => encodeP1 0x06#5 rn
  | .jmp rn => encodeP1 0x07#5 rn
  | .call rn => encodeP1 0x08#5 rn
  | .rjmp rn => encodeP1 0x09#5 rn
  | .rcall rn => encodeP1 0x0A#5 rn
  | .int rn => encodeP1 0x0B#5 rn
  | .sleep => [npWord 0#28]
  | .ret => [npWord 1#28]
  | .rfi => [npWord 2#28]
  | .unknownP3 op rd rs rn => encodeP3 op rd rs rn
  | .unknownP2 op rd rn => encodeP2 op rd rn
  | .unknownP1 op rn => encodeP1 op rn
  | .unknownNP op => [npWord op]

/-- The bytes of a well-formed instruction as they lie in memory (R100). -/
def encodeBytes (i : Instr) : List Byte := (encode i).flatMap bytesOfWord

end Sys2Proof
end

