-- ==== Sys2Proof/Machine/State.lean ====
section
/-! DEFINITION. The machine's state as plain data, the reasons a step can stop, and the state after reset
(10_state.md R30 to R60). -/

namespace Sys2Proof.Machine

/-- The bytes behind the bus port (20_memory.md R70, R74) that differ from `Config.unlistedByte`, by rising address. -/
abbrev Memory := List Host.Cell

/-- Reasons the machine stops with a fault. There are none: the core raises no exception and no behaviour of it is
a fault or a stuck state (60_exceptions.md R320; 93_implementation_defined.md, "No behaviour of this hardware has
the treatment fault or stuck"). Safe: nothing can raise one. -/
inductive Fault where
deriving DecidableEq, Repr

/-- Reasons a step has no meaning. -/
inductive Refusal where
  /-- Raised by an arm of `exec` whose instruction has no meaning yet. Safe: the run stops. No arm raises it. -/
  | notModelled (mnemonic : String)
  /-- Raised by the step if the bytes it fetched end inside an instruction. Safe: the run stops. The step fetches
  four bytes or eight as the length test says, so no state raises it. -/
  | truncatedInstruction
deriving DecidableEq, Repr

/-- The state: the core's, as the tuple of 10_state.md R58 gives it, memory behind the bus port (20_memory.md R70),
and the cycle count of the current step (44_step_cycle.md R291), the value `step()` returns. -/
structure State where
  /-- `x[0]` to `x[15]`, FLAGS (`x[15]`) among them (R30, R37). -/
  regs : Vector Word 16
  /-- The program counter, a byte address (R47). -/
  pc : Word
  /-- Idle cycles left before the next step, read and written by `tick` alone (R50). -/
  waitCycles : Nat
  /-- The message of the pending interrupt (R51). -/
  intMsg : Byte
  /-- An interrupt is pending (R52). -/
  interrupt : Bool
  /-- Single stepping, set by the host (R53). -/
  stepMode : Bool
  /-- The next instruction fetched is to be skipped (R54). -/
  skipping : Bool
  /-- The core is stopped by SLEEP (R55). -/
  sleeping : Bool
  /-- Memory: the bus's state, not the core's (R57). -/
  mem : Memory
  /-- The model's own field: the accumulator `cost` of the current step, which after the step is what `step()`
  returned (44_step_cycle.md R291). -/
  cost : Nat
deriving DecidableEq, Repr

/-- The machine right after reset, with memory at its launch content (10_state.md R59, 70_reset_and_hazards.md R360). -/
def State.reset : State where
  regs := Vector.replicate 16 0#32
  pc := Config.resetPc
  waitCycles := 0
  intMsg := 0#8
  interrupt := false
  stepMode := false
  skipping := false
  sleeping := false
  mem := []
  cost := 0

end Sys2Proof.Machine
end

