-- ==== Sys2Proof/Machine/Flags.lean ====
section
/-! DEFINITION. FLAGS (10_state.md R38 to R46) and what the ALU computes: each operation's result with the carry and
overflow its rule gives (40_p3_three_operand.md R140 to R159). Functions of values; nothing here reads the state. -/

namespace Sys2Proof.Machine

/-- The named fields of FLAGS (R38). -/
inductive Flag where
  | CF | OF | DE | IF | EI | ESS
deriving DecidableEq, Repr

/-- The bit of `x[15]` a flag stands at (R38). -/
def Flag.bit : Flag → Nat
  | .CF => 0
  | .OF => 1
  | .DE => 2
  | .IF => 3
  | .EI => 8
  | .ESS => 9

/-- Write one bit of a word and leave the other 31 (R46). -/
def setBit (w : Word) (i : Nat) (b : Bool) : Word :=
  if b then w ||| BitVec.twoPow 32 i else w &&& ~~~BitVec.twoPow 32 i

/-- What an ALU operation gives: the result for `x[rd]`, and CF and OF. -/
structure AluOut where
  res : Word
  cf : Bool
  of : Bool
deriving DecidableEq, Repr

/-- `sign(v)`: bit 31 (00_scope.md R17). -/
def sign (v : Word) : Bool := v.getLsbD 31

/-- A result that clears CF and OF (R140 to R143, R153, R154). -/
def clearing (res : Word) : AluOut := { res := res, cf := false, of := false }

/-- AND (R140). -/
def aluAnd (a b : Word) (_cin : Bool) : AluOut := clearing (a &&& b)

/-- OR (R141). -/
def aluOr (a b : Word) (_cin : Bool) : AluOut := clearing (a ||| b)

/-- XOR (R142). -/
def aluXor (a b : Word) (_cin : Bool) : AluOut := clearing (a ^^^ b)

/-- BITC (R143). -/
def aluBitc (a b : Word) (_cin : Bool) : AluOut := clearing (a &&& ~~~b)

/-- `a + b + cin` through an exact sum: CF is its bit 32; OF compares the signs of `a`, `b` and the result (R144, R145). -/
def addWith (a b : Word) (cin : Bool) : AluOut :=
  let t := a.toNat + b.toNat + cin.toNat
  let res := BitVec.ofNat 32 t
  { res := res, cf := t.testBit 32, of := sign a == sign b && sign b != sign res }

/-- `a - (b + cin)` through an exact subtrahend: CF is the unsigned borrow; OF compares the signs of `a`, `b` and the
result (R146, R147, with `BORROW_WIDTH` exact). -/
def subWith (a b : Word) (cin : Bool) : AluOut :=
  let t := b.toNat + cin.toNat
  let res := BitVec.ofInt 32 ((a.toNat : Int) - (t : Int))
  { res := res, cf := decide (a.toNat < t), of := sign a != sign b && sign b == sign res }

/-- ADD (R144). -/
def aluAdd (a b : Word) (_cin : Bool) : AluOut := addWith a b false

/-- ADDC (R145). -/
def aluAddc (a b : Word) (cin : Bool) : AluOut := addWith a b cin

/-- SUB (R146). -/
def aluSub (a b : Word) (_cin : Bool) : AluOut := subWith a b false

/-- SUBB (R147). -/
def aluSubb (a b : Word) (cin : Bool) : AluOut := subWith a b cin

/-- RSB: SUB with the operands exchanged (R148). -/
def aluRsb (a b : Word) (_cin : Bool) : AluOut := subWith b a false

/-- RSBB: SUBB with the operands exchanged (R149). -/
def aluRsbb (a b : Word) (cin : Bool) : AluOut := subWith b a cin

/-- A shift count as far as it matters: the shifts below are over 33 bits, and from 33 on a count shifts every one of
them out (the corner cases of R150 to R152). -/
def shiftCount (b : Word) : Nat := min b.toNat 33

/-- LLS: `t = a << b`, of which bit 32 is CF and bits 31 to 0 the result (R150). -/
def aluLls (a b : Word) (_cin : Bool) : AluOut :=
  let t : BitVec 33 := a.setWidth 33 <<< shiftCount b
  { res := t.setWidth 32, cf := t.getLsbD 32, of := false }

/-- RLS: `t = (a << 1) >>u b`, of which bit 0 is CF and bits 32 to 1 the result (R151). -/
def aluRls (a b : Word) (_cin : Bool) : AluOut :=
  let t : BitVec 33 := (a ++ 0#1) >>> shiftCount b
  { res := t.extractLsb' 1 32, cf := t.getLsbD 0, of := false }

/-- ARS: `t = (a << 1) >>s b`, of which bit 0 is CF and bits 32 to 1 the result, the sign filling every larger count
(R152, with `ARS_LARGE_COUNT` exact; 90_conflicts.md C5). -/
def aluArs (a b : Word) (_cin : Bool) : AluOut :=
  let t : BitVec 33 := (a ++ 0#1).sshiftRight (shiftCount b)
  { res := t.extractLsb' 1 32, cf := t.getLsbD 0, of := false }

/-- ROTL by `b mod 32` (R153). -/
def aluRotl (a b : Word) (_cin : Bool) : AluOut :=
  let n := b.toNat % 32
  clearing (a <<< n ||| a >>> (32 - n))

/-- ROTR by `b mod 32` (R154). -/
def aluRotr (a b : Word) (_cin : Bool) : AluOut :=
  let n := b.toNat % 32
  clearing (a >>> n ||| a <<< (32 - n))

/-- What a multiply or a division gives: `rd` for `x[rd]` and `y` for `x[Y]` (R155). -/
structure WideOut where
  rd : Word
  y : Word
deriving DecidableEq, Repr

/-- The halves of a 64-bit product (R156, R157). -/
def halves (p : BitVec 64) : WideOut := { rd := p.extractLsb' 0 32, y := p.extractLsb' 32 32 }

/-- MUL: the unsigned 64-bit product (R156). -/
def mulWide (a b : Word) : WideOut := halves (a.setWidth 64 * b.setWidth 64)

/-- SMUL: the two's complement 64-bit product (R157). -/
def smulWide (a b : Word) : WideOut := halves (a.signExtend 64 * b.signExtend 64)

/-- DIV by a divisor that is not zero: quotient and remainder (R158). -/
def divWide (a d : Word) : WideOut :=
  { rd := BitVec.ofNat 32 (a.toNat / d.toNat), y := BitVec.ofNat 32 (a.toNat % d.toNat) }

/-- SDIV by a divisor that is not zero: the quotient rounds toward zero, the remainder has the dividend's sign, and
0x80000000 by -1 gives 0x80000000 and 0 (R159, with `SDIV_ROUNDING` trunc and `SDIV_OVF_RESULT` wrap). -/
def sdivWide (a d : Word) : WideOut :=
  if a = 0x80000000#32 ∧ d = 0xFFFFFFFF#32 then { rd := 0x80000000#32, y := 0#32 }
  else
    let q := a.toInt.tdiv d.toInt
    { rd := BitVec.ofInt 32 q, y := BitVec.ofInt 32 (a.toInt - q * d.toInt) }

end Sys2Proof.Machine
end

