-- ==== Sys2Proof/Machine/Ops.lean ====
section
/-! DEFINITION. The named operations on the state: registers, FLAGS, the cycle count, memory through the bus port, the
stack, and interrupts: requesting one, taking one and returning from one. -/

namespace Sys2Proof.Machine

/-! ### Registers, FLAGS, pc and cycles -/

/-- `x[r]` (00_scope.md R16). No register is hardwired (10_state.md R32). -/
def State.reg (s : State) (r : Reg) : Word := s.regs.get r

/-- `x[r] <- v` (00_scope.md R16). -/
def State.setReg (s : State) (r : Reg) (v : Word) : State := { s with regs := s.regs.set r v }

/-- A flag of `x[15]` (10_state.md R38). -/
def State.flag (s : State) (f : Flag) : Bool := (s.reg Reg.flags).getLsbD f.bit

/-- Write one flag and leave the other 31 bits of `x[15]` (10_state.md R46). -/
def State.setFlag (s : State) (f : Flag) (b : Bool) : State :=
  s.setReg Reg.flags (setBit (s.reg Reg.flags) f.bit b)

/-- `pc <- target` (00_scope.md R20). -/
def State.setPc (s : State) (target : Word) : State := { s with pc := target }

/-- `target & 0xFFFFFFFC` (41_p2_two_operand.md R199). -/
def alignTarget (target : Word) : Word := target &&& 0xFFFFFFFC#32

/-- A control transfer to `target`, its bits 1 and 0 cleared (41_p2_two_operand.md R199). -/
def State.jump (s : State) (target : Word) : State := s.setPc (alignTarget target)

/-- `cost <- cost + k` (00_scope.md R20). -/
def State.addCost (s : State) (k : Nat) : State := { s with cost := s.cost + k }

/-- `cost <- k`: replace what the step has accumulated (43_np_zero_operand.md R270). -/
def State.setCost (s : State) (k : Nat) : State := { s with cost := k }

/-- `wait_cycles <- n` (10_state.md R50). -/
def State.setWaitCycles (s : State) (n : Nat) : State := { s with waitCycles := n }

/-- `int_msg <- msg` (10_state.md R51). -/
def State.setIntMsg (s : State) (msg : Byte) : State := { s with intMsg := msg }

/-- `interrupt <- b` (10_state.md R52). -/
def State.setInterrupt (s : State) (b : Bool) : State := { s with interrupt := b }

/-- `step_mode <- b` (10_state.md R53). -/
def State.setStepMode (s : State) (b : Bool) : State := { s with stepMode := b }

/-- `skipping <- b` (10_state.md R54). -/
def State.setSkipping (s : State) (b : Bool) : State := { s with skipping := b }

/-- `sleeping <- b` (10_state.md R55). -/
def State.setSleeping (s : State) (b : Bool) : State := { s with sleeping := b }

/-- The ALU's write order: flags, then `x[rd]`; so FLAGS as destination ends holding the result (40_p3_three_operand.md
R131, with `FLAGS_DEST_ORDER` result last). -/
def State.writeAlu (s : State) (rd : Reg) (out : AluOut) : State :=
  ((s.setFlag .CF out.cf).setFlag .OF out.of).setReg rd out.res

/-- The write order of a multiply or a division: `x[rd]`, then `x[Y]` (40_p3_three_operand.md R131 and R155, with
`Y_DEST_ORDER` Y last). -/
def State.writeWide (s : State) (rd : Reg) (out : WideOut) : State :=
  (s.setReg rd out.rd).setReg Reg.y out.y

/-- `skipping <- true` and one cycle more when the predicate fails (41_p2_two_operand.md R220). -/
def State.skipUnless (s : State) (p : Bool) : State :=
  if p then s else (s.addCost 1).setSkipping true

/-! ### Memory behind the bus port: plain memory over the whole address space (20_memory.md R70 to R74) -/

/-- The byte at an address: the one last written there, or its launch content (R74). -/
def Memory.read : Memory → Nat → Byte
  | [], _ => Config.unlistedByte
  | (k, v) :: rest, a => if k = a then v else Memory.read rest a

/-- Unlist an address. -/
def Memory.erase (m : Memory) (a : Nat) : Memory := m.filter (fun c => decide (c.1 ≠ a))

/-- List a byte at an address, in its place by rising address. -/
def Memory.insert : Memory → Nat → Byte → Memory
  | [], a, b => [(a, b)]
  | (k, v) :: rest, a, b =>
    if a < k then (a, b) :: (k, v) :: rest
    else if a = k then (a, b) :: rest
    else (k, v) :: Memory.insert rest a b

/-- Write a byte and keep the canonical form: what an unlisted address reads as is not listed. -/
def Memory.write (m : Memory) (a : Nat) (b : Byte) : Memory :=
  if b = Config.unlistedByte then m.erase a else m.insert a b

/-- The canonical form: 32-bit addresses, strictly rising, no entry equal to what an unlisted address reads as. -/
abbrev Memory.wf (m : Memory) : Prop :=
  m.Pairwise (fun c d => c.1 < d.1) ∧ ∀ c ∈ m, c.1 < 2 ^ 32 ∧ c.2 ≠ Config.unlistedByte

/-- `read_b` (R71). -/
def State.readByte (s : State) (a : Word) : Byte := s.mem.read a.toNat

/-- `read_w`: little-endian, each byte address modulo 2^32 (R71, R72). -/
def State.readHalf (s : State) (a : Word) : Half := s.readByte (a + 1#32) ++ s.readByte a

/-- `read_d` (R71, R72). -/
def State.readWord (s : State) (a : Word) : Word :=
  wordOfBytes (s.readByte a) (s.readByte (a + 1#32)) (s.readByte (a + 2#32)) (s.readByte (a + 3#32))

/-- The `n` bytes from an address on. -/
def State.readBytes (s : State) : Word → Nat → List Byte
  | _, 0 => []
  | a, n + 1 => s.readByte a :: s.readBytes (a + 1#32) n

/-- `write_b` (R71). -/
def State.writeByte (s : State) (a : Word) (b : Byte) : State := { s with mem := s.mem.write a.toNat b }

/-- Write bytes from an address on, in ascending order (R82), each address modulo 2^32 (R72). -/
def State.writeBytes (s : State) : Word → List Byte → State
  | _, [] => s
  | a, b :: rest => (s.writeByte a b).writeBytes (a + 1#32) rest

/-- `write_w` (R71, R72, R82). -/
def State.writeHalf (s : State) (a : Word) (v : Half) : State :=
  s.writeBytes a [v.extractLsb' 0 8, v.extractLsb' 8 8]

/-- `write_d` (R71, R72, R82). -/
def State.writeWord (s : State) (a : Word) (v : Word) : State := s.writeBytes a (bytesOfWord v)

/-! ### The stack (20_memory.md R83 to R85) -/

/-- One byte of a push: SP moves first (R83, R84). -/
def State.pushByte (s : State) (b : Byte) : State :=
  let sp := s.reg Reg.sp - 1#32
  (s.setReg Reg.sp sp).writeByte sp b

/-- `Push(v)`: four byte writes at falling addresses, the most significant byte first (R84). -/
def State.push (s : State) (v : Word) : State :=
  (((s.pushByte (Word.byte v 3)).pushByte (Word.byte v 2)).pushByte (Word.byte v 1)).pushByte (Word.byte v 0)

/-- `Pop()`: the D-word at SP, and the state with SP past it (R85). -/
def State.pop (s : State) : Word × State :=
  (s.readWord (s.reg Reg.sp), s.setReg Reg.sp (s.reg Reg.sp + 4#32))

/-! ### Interrupts (60_exceptions.md) -/

/-- `SendInterrupt(msg)`: refused while EI = 0, else the one pending slot takes the message (R322). -/
def State.sendInterrupt (s : State) (msg : Byte) : Bool × State :=
  if s.flag .EI then (true, (s.setInterrupt true).setIntMsg msg) else (false, s)

/-- The address of a message's entry in the vector table at IA (R326, R330). -/
def State.vectorAddress (s : State) (msg : Byte) : Word := s.reg Reg.ia + msg.setWidth 32 <<< 2

/-- Taking the pending interrupt (R326, R327). A null vector drops the request. Else push `x[0]`, push `pc`, load the
message into `x[0]` and the vector, unmasked, into `pc`, set IF, clear `interrupt` and `sleeping`. -/
def State.acceptInterrupt (s : State) : State :=
  let vector := s.readWord (s.vectorAddress s.intMsg)
  if vector = 0#32 then s.setInterrupt false
  else
    let s1 := (s.push (s.reg 0)).push s.pc
    let s2 := ((s1.setReg 0 (s1.intMsg.setWidth 32)).setPc vector).setFlag .IF true
    (s2.setInterrupt false).setSleeping false

/-- Returning from one: pop `pc` (aligned, 90_conflicts.md C7), pop `x[0]`, clear IF, discard a pending request
(43_np_zero_operand.md R273). -/
def State.returnFromInterrupt (s : State) : State :=
  let (target, s1) := s.pop
  let (old, s2) := (s1.jump target).pop
  ((s2.setReg 0 old).setFlag .IF false).setInterrupt false

/-- The interrupt controller: it takes the pending interrupt if and only if EI = 1 (R325). -/
def State.interruptController (s : State) : State :=
  if s.interrupt && s.flag .EI then s.acceptInterrupt else s

/-- The step-mode check: request interrupt 0 when stepping outside a handler, IF as the instruction left it
(44_step_cycle.md R300, with `STEP_MODE_IF_SAMPLE` after). -/
def State.stepModeCheck (s : State) : State :=
  if s.stepMode && !s.flag .IF then (s.sendInterrupt 0#8).2 else s

end Sys2Proof.Machine
end

