-- ==== Sys2Proof/Machine/Operands.lean ====
section
/-! DEFINITION. The operand `RN`, the effective addresses, and the shapes several instructions of a family share. A
meaning starts from the state decode leaves: `pc` past the instruction's own words, `cost` holding the continuation
word's cycle (44_step_cycle.md R293, R298). -/

namespace Sys2Proof.Machine

/-- How a meaning answers. -/
abbrev Result := Host.Outcome State Fault Refusal

/-- The value of `RN` (00_scope.md R21): the register, or the literal. -/
def State.operand (s : State) : Operand → Word
  | .reg r => s.reg r
  | .lit v => v
  | .long v => v

/-- The base cost of the P3, P2 and P1 families (44_step_cycle.md R298; 70_reset_and_hazards.md R381). -/
def wideBaseCost : Nat := 3

/-- The base cost of the NP family (44_step_cycle.md R298). -/
def npBaseCost : Nat := 1

/-- A P3 ALU instruction: operands and CF before any write, then flags, then `x[rd]` (40_p3_three_operand.md R130 to
R132, R134). -/
def State.aluStep (s : State) (f : Word → Word → Bool → AluOut) (rd rs : Reg) (rn : Operand) : State :=
  (s.addCost wideBaseCost).writeAlu rd (f (s.reg rs) (s.operand rn) (s.flag .CF))

/-- CF and OF cleared, the start of every multiply and division (R156 to R159). -/
def State.clearCarryOverflow (s : State) : State := (s.setFlag .CF false).setFlag .OF false

/-- A multiply: `delta` cycles over the base, flags cleared, two registers written (R155 to R157). -/
def State.multiplyStep (s : State) (f : Word → Word → WideOut) (delta : Nat) (rd rs : Reg) (rn : Operand) : State :=
  ((s.addCost (wideBaseCost + delta)).clearCarryOverflow).writeWide rd (f (s.reg rs) (s.operand rn))

/-- A division: as a multiply, but a zero divisor sets DE and writes neither register (R158, R159). -/
def State.divideStep (s : State) (f : Word → Word → WideOut) (delta : Nat) (rd rs : Reg) (rn : Operand) : State :=
  let s1 := (s.addCost (wideBaseCost + delta)).clearCarryOverflow
  if s.operand rn = 0#32 then s1.setFlag .DE true
  else s1.writeWide rd (f (s.reg rs) (s.operand rn))

/-- The effective address of a P3 memory instruction, `RS + RN` modulo 2^32 (40_p3_three_operand.md, section 6). -/
def State.address3 (s : State) (rs : Reg) (rn : Operand) : Word := s.reg rs + s.operand rn

/-- The effective address of a P2 memory instruction, `RN` itself (41_p2_two_operand.md, section 3). -/
def State.address2 (s : State) (rn : Operand) : Word := s.operand rn

/-- The D-word at an address into `x[rd]` (R160, R205). -/
def State.loadWord (s : State) (rd : Reg) (a : Word) : State := (s.addCost wideBaseCost).setReg rd (s.readWord a)

/-- The half-word at an address, zero-extended, into `x[rd]` (R161, R206; 20_memory.md R76). -/
def State.loadHalf (s : State) (rd : Reg) (a : Word) : State :=
  (s.addCost wideBaseCost).setReg rd ((s.readHalf a).setWidth 32)

/-- The byte at an address, zero-extended, into `x[rd]` (R162, R207; 20_memory.md R76). -/
def State.loadByte (s : State) (rd : Reg) (a : Word) : State :=
  (s.addCost wideBaseCost).setReg rd ((s.readByte a).setWidth 32)

/-- `x[rd]` to the four bytes at an address (R163, R208). -/
def State.storeWord (s : State) (rd : Reg) (a : Word) : State := (s.addCost wideBaseCost).writeWord a (s.reg rd)

/-- The low half of `x[rd]` to the two bytes at an address (R164, R209). -/
def State.storeHalf (s : State) (rd : Reg) (a : Word) : State :=
  (s.addCost wideBaseCost).writeHalf a ((s.reg rd).extractLsb' 0 16)

/-- The low byte of `x[rd]` to the byte at an address (R165, R210). -/
def State.storeByte (s : State) (rd : Reg) (a : Word) : State :=
  (s.addCost wideBaseCost).writeByte a ((s.reg rd).extractLsb' 0 8)

/-- A P2 instruction that writes `x[rd]` and nothing else (41_p2_two_operand.md R197, R198). -/
def State.moveStep (s : State) (rd : Reg) (v : Word) : State := (s.addCost wideBaseCost).setReg rd v

/-- A conditional skip on a predicate of `x[rd]` and `RN` (41_p2_two_operand.md R220). -/
def State.condStep (s : State) (p : Word → Word → Bool) (rd : Reg) (rn : Operand) : State :=
  (s.addCost wideBaseCost).skipUnless (p (s.reg rd) (s.operand rn))

/-- A P1 instruction on a register: with L = 1 it does nothing but cost its cycles (42_p1_one_operand.md R238). -/
def State.onRegister (s : State) (rn : Operand) (f : Reg → State → State) : State :=
  match rn with
  | .reg r => f r (s.addCost wideBaseCost)
  | .lit _ => s.addCost wideBaseCost
  | .long _ => s.addCost wideBaseCost

/-- `sext_8` of the low byte (R202). -/
def signExtendByte (v : Word) : Word := (v.extractLsb' 0 8).signExtend 32

/-- `sext_16` of the low half (R203). -/
def signExtendHalf (v : Word) : Word := (v.extractLsb' 0 16).signExtend 32

/-- The low two bytes exchanged (R240). -/
def exchangeBytes (v : Word) : Word := v.extractLsb' 16 16 ++ v.extractLsb' 0 8 ++ v.extractLsb' 8 8

/-- The two half-words exchanged (R241). -/
def exchangeHalves (v : Word) : Word := v.extractLsb' 0 16 ++ v.extractLsb' 16 16

end Sys2Proof.Machine
end

