-- ==== Sys2Proof/Machine/Alu.lean ====
section
/-! DEFINITION. The P3 logic, arithmetic and shift instructions (40_p3_three_operand.md sections 2 to 4), one meaning each. -/

namespace Sys2Proof.Machine

/-- AND (40_p3_three_operand.md R140). -/
def execAnd (rd rs : Reg) (rn : Operand) (s : State) : Result := .next (s.aluStep aluAnd rd rs rn)

/-- OR (40_p3_three_operand.md R141). -/
def execOr (rd rs : Reg) (rn : Operand) (s : State) : Result := .next (s.aluStep aluOr rd rs rn)

/-- XOR (40_p3_three_operand.md R142). -/
def execXor (rd rs : Reg) (rn : Operand) (s : State) : Result := .next (s.aluStep aluXor rd rs rn)

/-- BITC (40_p3_three_operand.md R143). -/
def execBitc (rd rs : Reg) (rn : Operand) (s : State) : Result := .next (s.aluStep aluBitc rd rs rn)

/-- ADD (40_p3_three_operand.md R144). -/
def execAdd (rd rs : Reg) (rn : Operand) (s : State) : Result := .next (s.aluStep aluAdd rd rs rn)

/-- ADDC (40_p3_three_operand.md R145). -/
def execAddc (rd rs : Reg) (rn : Operand) (s : State) : Result := .next (s.aluStep aluAddc rd rs rn)

/-- SUB (40_p3_three_operand.md R146). -/
def execSub (rd rs : Reg) (rn : Operand) (s : State) : Result := .next (s.aluStep aluSub rd rs rn)

/-- SUBB (40_p3_three_operand.md R147). -/
def execSubb (rd rs : Reg) (rn : Operand) (s : State) : Result := .next (s.aluStep aluSubb rd rs rn)

/-- RSB (40_p3_three_operand.md R148). -/
def execRsb (rd rs : Reg) (rn : Operand) (s : State) : Result := .next (s.aluStep aluRsb rd rs rn)

/-- RSBB (40_p3_three_operand.md R149). -/
def execRsbb (rd rs : Reg) (rn : Operand) (s : State) : Result := .next (s.aluStep aluRsbb rd rs rn)

/-- LLS (40_p3_three_operand.md R150). -/
def execLls (rd rs : Reg) (rn : Operand) (s : State) : Result := .next (s.aluStep aluLls rd rs rn)

/-- RLS (40_p3_three_operand.md R151). -/
def execRls (rd rs : Reg) (rn : Operand) (s : State) : Result := .next (s.aluStep aluRls rd rs rn)

/-- ARS (40_p3_three_operand.md R152). -/
def execArs (rd rs : Reg) (rn : Operand) (s : State) : Result := .next (s.aluStep aluArs rd rs rn)

/-- ROTL (40_p3_three_operand.md R153). -/
def execRotl (rd rs : Reg) (rn : Operand) (s : State) : Result := .next (s.aluStep aluRotl rd rs rn)

/-- ROTR (40_p3_three_operand.md R154). -/
def execRotr (rd rs : Reg) (rn : Operand) (s : State) : Result := .next (s.aluStep aluRotr rd rs rn)

end Sys2Proof.Machine
end

