-- ==== Sys2Proof/Machine/Conditional.lean ====
section
/-! DEFINITION. The eight conditional skips (41_p2_two_operand.md section 5): each is its predicate over the rule all of them share, R220. -/

namespace Sys2Proof.Machine

/-- IFEQ (41_p2_two_operand.md R221). -/
def execIfeq (rd : Reg) (rn : Operand) (s : State) : Result := .next (s.condStep (fun a b => decide (a = b)) rd rn)

/-- IFNEQ (41_p2_two_operand.md R222). -/
def execIfneq (rd : Reg) (rn : Operand) (s : State) : Result := .next (s.condStep (fun a b => decide (a ≠ b)) rd rn)

/-- IFL (41_p2_two_operand.md R223). -/
def execIfl (rd : Reg) (rn : Operand) (s : State) : Result := .next (s.condStep (fun a b => a.ult b) rd rn)

/-- IFSL (41_p2_two_operand.md R224). -/
def execIfsl (rd : Reg) (rn : Operand) (s : State) : Result := .next (s.condStep (fun a b => a.slt b) rd rn)

/-- IFLE (41_p2_two_operand.md R225). -/
def execIfle (rd : Reg) (rn : Operand) (s : State) : Result := .next (s.condStep (fun a b => a.ule b) rd rn)

/-- IFSLE (41_p2_two_operand.md R226). -/
def execIfsle (rd : Reg) (rn : Operand) (s : State) : Result := .next (s.condStep (fun a b => a.sle b) rd rn)

/-- IFBITS (41_p2_two_operand.md R227). -/
def execIfbits (rd : Reg) (rn : Operand) (s : State) : Result := .next (s.condStep (fun a b => decide (a &&& b ≠ 0#32)) rd rn)

/-- IFCLEAR (41_p2_two_operand.md R228). -/
def execIfclear (rd : Reg) (rn : Operand) (s : State) : Result := .next (s.condStep (fun a b => decide (a &&& b = 0#32)) rd rn)

end Sys2Proof.Machine
end

