-- ==== Sys2Proof/Machine/Memory3.lean ====
section
/-! DEFINITION. The P3 loads and stores, base plus offset (40_p3_three_operand.md section 6), and the unknown P3 opcodes (section 7). -/

namespace Sys2Proof.Machine

/-- LOAD (40_p3_three_operand.md R160). -/
def execLoad (rd rs : Reg) (rn : Operand) (s : State) : Result := .next (s.loadWord rd (s.address3 rs rn))

/-- LOADW (40_p3_three_operand.md R161). -/
def execLoadw (rd rs : Reg) (rn : Operand) (s : State) : Result := .next (s.loadHalf rd (s.address3 rs rn))

/-- LOADB (40_p3_three_operand.md R162). -/
def execLoadb (rd rs : Reg) (rn : Operand) (s : State) : Result := .next (s.loadByte rd (s.address3 rs rn))

/-- STORE (40_p3_three_operand.md R163). -/
def execStore (rd rs : Reg) (rn : Operand) (s : State) : Result := .next (s.storeWord rd (s.address3 rs rn))

/-- STOREW (40_p3_three_operand.md R164). -/
def execStorew (rd rs : Reg) (rn : Operand) (s : State) : Result := .next (s.storeHalf rd (s.address3 rs rn))

/-- STOREB (40_p3_three_operand.md R165). -/
def execStoreb (rd rs : Reg) (rn : Operand) (s : State) : Result := .next (s.storeByte rd (s.address3 rs rn))

/-- An unknown P3 opcode: no effect but its cycles (40_p3_three_operand.md R166, with `UNKNOWN_COST` family base). -/
def execUnknownP3 (_op : BitVec 6) (_rd _rs : Reg) (_rn : Operand) (s : State) : Result :=
  .next (s.addCost wideBaseCost)

end Sys2Proof.Machine
end

