-- ==== Sys2Proof/Machine/MulDiv.lean ====
section
/-! DEFINITION. The P3 multiply and divide instructions (40_p3_three_operand.md section 5), one meaning each. -/

namespace Sys2Proof.Machine

/-- MUL (40_p3_three_operand.md R156). -/
def execMul (rd rs : Reg) (rn : Operand) (s : State) : Result := .next (s.multiplyStep mulWide 17 rd rs rn)

/-- SMUL (40_p3_three_operand.md R157). -/
def execSmul (rd rs : Reg) (rn : Operand) (s : State) : Result := .next (s.multiplyStep smulWide 27 rd rs rn)

/-- DIV (40_p3_three_operand.md R158). -/
def execDiv (rd rs : Reg) (rn : Operand) (s : State) : Result := .next (s.divideStep divWide 27 rd rs rn)

/-- SDIV (40_p3_three_operand.md R159). -/
def execSdiv (rd rs : Reg) (rn : Operand) (s : State) : Result := .next (s.divideStep sdivWide 37 rd rs rn)

end Sys2Proof.Machine
end

