-- ==== Sys2Proof/Machine/NoOperand.lean ====
section
/-! DEFINITION. The NP instructions (43_np_zero_operand.md), one meaning each. -/

namespace Sys2Proof.Machine

/-- SLEEP: the core stops until an interrupt is accepted; the step's cost is 1 in place of everything accumulated
(43_np_zero_operand.md R270). -/
def execSleep (s : State) : Result := .next ((s.setCost 1).setSleeping true)

/-- RET: pop the return address (43_np_zero_operand.md R272). -/
def execRet (s : State) : Result :=
  let (target, t) := (s.addCost (npBaseCost + 3)).pop
  .next (t.jump target)

/-- RFI: return from an interrupt handler (43_np_zero_operand.md R273). -/
def execRfi (s : State) : Result := .next (s.addCost (npBaseCost + 5)).returnFromInterrupt

/-- An unknown NP opcode: no effect but one cycle (43_np_zero_operand.md R274). -/
def execUnknownNP (_op : BitVec 28) (s : State) : Result := .next (s.addCost npBaseCost)

end Sys2Proof.Machine
end

