-- ==== Sys2Proof/Machine/OneOperand.lean ====
section
/-! DEFINITION. The P1 instructions (42_p1_one_operand.md), one meaning each. -/

namespace Sys2Proof.Machine

/-- XCHGB (42_p1_one_operand.md R240). -/
def execXchgb (rn : Operand) (s : State) : Result := .next (s.onRegister rn (fun r t => t.setReg r (exchangeBytes (t.reg r))))

/-- XCHGW (42_p1_one_operand.md R241). -/
def execXchgw (rn : Operand) (s : State) : Result := .next (s.onRegister rn (fun r t => t.setReg r (exchangeHalves (t.reg r))))

/-- GETPC (42_p1_one_operand.md R242). -/
def execGetpc (rn : Operand) (s : State) : Result := .next (s.onRegister rn (fun r t => t.setReg r t.pc))

/-- POP: the D-word at SP into the register, and then SP moves, so that `POP SP` leaves SP at the value plus 4
(42_p1_one_operand.md R244; 90_conflicts.md C9). -/
def execPop (rn : Operand) (s : State) : Result :=
  .next (s.onRegister rn (fun r t =>
    let u := t.setReg r (t.readWord (t.reg Reg.sp))
    u.setReg Reg.sp (u.reg Reg.sp + 4#32)))

/-- PUSH (42_p1_one_operand.md R245). -/
def execPush (rn : Operand) (s : State) : Result := .next ((s.addCost wideBaseCost).push (s.operand rn))

/-- JMP (42_p1_one_operand.md R246). -/
def execJmp (rn : Operand) (s : State) : Result := .next ((s.addCost wideBaseCost).jump (s.operand rn))

/-- CALL (42_p1_one_operand.md R247). -/
def execCall (rn : Operand) (s : State) : Result := .next (((s.addCost (wideBaseCost + 1)).push s.pc).jump (s.operand rn))

/-- RJMP (42_p1_one_operand.md R248). -/
def execRjmp (rn : Operand) (s : State) : Result := .next ((s.addCost wideBaseCost).jump (s.pc + s.operand rn))

/-- RCALL (42_p1_one_operand.md R249). -/
def execRcall (rn : Operand) (s : State) : Result := .next (((s.addCost (wideBaseCost + 1)).push s.pc).jump (s.pc + s.operand rn))

/-- INT: request the interrupt whose message is the low byte of `RN`; refused while EI = 0, at the same cost
(42_p1_one_operand.md R250). The step takes it at its end (44_step_cycle.md R301). -/
def execInt (rn : Operand) (s : State) : Result :=
  .next ((s.addCost (wideBaseCost + 3)).sendInterrupt ((s.operand rn).extractLsb' 0 8)).2

/-- An unknown P1 opcode: no effect but its cycles (42_p1_one_operand.md R252, with `UNKNOWN_COST` family base). -/
def execUnknownP1 (_op : BitVec 5) (_rn : Operand) (s : State) : Result :=
  .next (s.addCost wideBaseCost)

end Sys2Proof.Machine
end

