-- ==== Sys2Proof/Machine/TwoOperand.lean ====
section
/-! DEFINITION. The P2 moves, loads, stores, jump and call, and the unknown P2 opcodes (41_p2_two_operand.md sections 2 to 4 and 6). -/

namespace Sys2Proof.Machine

/-- MOV (41_p2_two_operand.md R200). -/
def execMov (rd : Reg) (rn : Operand) (s : State) : Result := .next (s.moveStep rd (s.operand rn))

/-- SWP: exchange `x[rd]` and the RN register; with a literal, nothing (41_p2_two_operand.md R201). -/
def execSwp (rd : Reg) (rn : Operand) (s : State) : Result :=
  .next (s.onRegister rn (fun rs t => (t.setReg rd (t.reg rs)).setReg rs (t.reg rd)))

/-- SIGXB (41_p2_two_operand.md R202, with `SIGX_COMPAT` intended). -/
def execSigxb (rd : Reg) (rn : Operand) (s : State) : Result := .next (s.moveStep rd (signExtendByte (s.operand rn)))

/-- SIGXW (41_p2_two_operand.md R203, with `SIGX_COMPAT` intended). -/
def execSigxw (rd : Reg) (rn : Operand) (s : State) : Result := .next (s.moveStep rd (signExtendHalf (s.operand rn)))

/-- NOT (41_p2_two_operand.md R204). -/
def execNot (rd : Reg) (rn : Operand) (s : State) : Result := .next (s.moveStep rd (~~~s.operand rn))

/-- LOAD2 (41_p2_two_operand.md R205). -/
def execLoad2 (rd : Reg) (rn : Operand) (s : State) : Result := .next (s.loadWord rd (s.address2 rn))

/-- LOADW2 (41_p2_two_operand.md R206). -/
def execLoadw2 (rd : Reg) (rn : Operand) (s : State) : Result := .next (s.loadHalf rd (s.address2 rn))

/-- LOADB2 (41_p2_two_operand.md R207). -/
def execLoadb2 (rd : Reg) (rn : Operand) (s : State) : Result := .next (s.loadByte rd (s.address2 rn))

/-- STORE2 (41_p2_two_operand.md R208). -/
def execStore2 (rd : Reg) (rn : Operand) (s : State) : Result := .next (s.storeWord rd (s.address2 rn))

/-- STOREW2 (41_p2_two_operand.md R209). -/
def execStorew2 (rd : Reg) (rn : Operand) (s : State) : Result := .next (s.storeHalf rd (s.address2 rn))

/-- STOREB2 (41_p2_two_operand.md R210). -/
def execStoreb2 (rd : Reg) (rn : Operand) (s : State) : Result := .next (s.storeByte rd (s.address2 rn))

/-- JMP2 (41_p2_two_operand.md R211). -/
def execJmp2 (rd : Reg) (rn : Operand) (s : State) : Result := .next ((s.addCost wideBaseCost).jump (s.reg rd + s.operand rn))

/-- CALL2: push the return address, then jump to `x[rd] + RN` with `x[rd]` read after the push and `RN` before it
(41_p2_two_operand.md R212). -/
def execCall2 (rd : Reg) (rn : Operand) (s : State) : Result :=
  let t := (s.addCost (wideBaseCost + 1)).push s.pc
  .next (t.jump (t.reg rd + s.operand rn))

/-- An unknown P2 opcode: no effect but its cycles (41_p2_two_operand.md R230, with `UNKNOWN_COST` family base). -/
def execUnknownP2 (_op : BitVec 7) (_rd : Reg) (_rn : Operand) (s : State) : Result :=
  .next (s.addCost wideBaseCost)

end Sys2Proof.Machine
end

