-- ==== Sys2Proof/Machine/Dispatch.lean ====
section
/-! DEFINITION. Which meaning each instruction has: one arm a constructor. -/

namespace Sys2Proof.Machine

def exec (i : Instr) (s : State) : Host.Outcome State Fault Refusal :=
  match i with
  | .and rd rs rn => Sys2Proof.Machine.execAnd rd rs rn s
  | .or rd rs rn => Sys2Proof.Machine.execOr rd rs rn s
  | .xor rd rs rn => Sys2Proof.Machine.execXor rd rs rn s
  | .bitc rd rs rn => Sys2Proof.Machine.execBitc rd rs rn s
  | .add rd rs rn => Sys2Proof.Machine.execAdd rd rs rn s
  | .addc rd rs rn => Sys2Proof.Machine.execAddc rd rs rn s
  | .sub rd rs rn => Sys2Proof.Machine.execSub rd rs rn s
  | .subb rd rs rn => Sys2Proof.Machine.execSubb rd rs rn s
  | .rsb rd rs rn => Sys2Proof.Machine.execRsb rd rs rn s
  | .rsbb rd rs rn => Sys2Proof.Machine.execRsbb rd rs rn s
  | .lls rd rs rn => Sys2Proof.Machine.execLls rd rs rn s
  | .rls rd rs rn => Sys2Proof.Machine.execRls rd rs rn s
  | .ars rd rs rn => Sys2Proof.Machine.execArs rd rs rn s
  | .rotl rd rs rn => Sys2Proof.Machine.execRotl rd rs rn s
  | .rotr rd rs rn => Sys2Proof.Machine.execRotr rd rs rn s
  | .mul rd rs rn => Sys2Proof.Machine.execMul rd rs rn s
  | .smul rd rs rn => Sys2Proof.Machine.execSmul rd rs rn s
  | .div rd rs rn => Sys2Proof.Machine.execDiv rd rs rn s
  | .sdiv rd rs rn => Sys2Proof.Machine.execSdiv rd rs rn s
  | .load rd rs rn => Sys2Proof.Machine.execLoad rd rs rn s
  | .loadw rd rs rn => Sys2Proof.Machine.execLoadw rd rs rn s
  | .loadb rd rs rn => Sys2Proof.Machine.execLoadb rd rs rn s
  | .store rd rs rn => Sys2Proof.Machine.execStore rd rs rn s
  | .storew rd rs rn => Sys2Proof.Machine.execStorew rd rs rn s
  | .storeb rd rs rn => Sys2Proof.Machine.execStoreb rd rs rn s
  | .mov rd rn => Sys2Proof.Machine.execMov rd rn s
  | .swp rd rn => Sys2Proof.Machine.execSwp rd rn s
  | .sigxb rd rn => Sys2Proof.Machine.execSigxb rd rn s
  | .sigxw rd rn => Sys2Proof.Machine.execSigxw rd rn s
  | .not rd rn => Sys2Proof.Machine.execNot rd rn s
  | .load2 rd rn => Sys2Proof.Machine.execLoad2 rd rn s
  | .loadw2 rd rn => Sys2Proof.Machine.execLoadw2 rd rn s
  | .loadb2 rd rn => Sys2Proof.Machine.execLoadb2 rd rn s
  | .store2 rd rn => Sys2Proof.Machine.execStore2 rd rn s
  | .storew2 rd rn => Sys2Proof.Machine.execStorew2 rd rn s
  | .storeb2 rd rn => Sys2Proof.Machine.execStoreb2 rd rn s
  | .jmp2 rd rn => Sys2Proof.Machine.execJmp2 rd rn s
  | .call2 rd rn => Sys2Proof.Machine.execCall2 rd rn s
  | .ifeq rd rn => Sys2Proof.Machine.execIfeq rd rn s
  | .ifneq rd rn => Sys2Proof.Machine.execIfneq rd rn s
  | .ifl rd rn => Sys2Proof.Machine.execIfl rd rn s
  | .ifsl rd rn => Sys2Proof.Machine.execIfsl rd rn s
  | .ifle rd rn => Sys2Proof.Machine.execIfle rd rn s
  | .ifsle rd rn => Sys2Proof.Machine.execIfsle rd rn s
  | .ifbits rd rn => Sys2Proof.Machine.execIfbits rd rn s
  | .ifclear rd rn => Sys2Proof.Machine.execIfclear rd rn s
  | .xchgb rn => Sys2Proof.Machine.execXchgb rn s
  | .xchgw rn => Sys2Proof.Machine.execXchgw rn s
  | .getpc rn => Sys2Proof.Machine.execGetpc rn s
  | .pop rn => Sys2Proof.Machine.execPop rn s
  | .push rn => Sys2Proof.Machine.execPush rn s
  | .jmp rn => Sys2Proof.Machine.execJmp rn s
  | .call rn => Sys2Proof.Machine.execCall rn s
  | .rjmp rn => Sys2Proof.Machine.execRjmp rn s
  | .rcall rn => Sys2Proof.Machine.execRcall rn s
  | .int rn => Sys2Proof.Machine.execInt rn s
  | .sleep => Sys2Proof.Machine.execSleep s
  | .ret => Sys2Proof.Machine.execRet s
  | .rfi => Sys2Proof.Machine.execRfi s
  | .unknownP3 op rd rs rn => Sys2Proof.Machine.execUnknownP3 op rd rs rn s
  | .unknownP2 op rd rn => Sys2Proof.Machine.execUnknownP2 op rd rn s
  | .unknownP1 op rn => Sys2Proof.Machine.execUnknownP1 op rn s
  | .unknownNP op => Sys2Proof.Machine.execUnknownNP op s

end Sys2Proof.Machine
end

