-- ==== Sys2Proof/Machine/Cycle.lean ====
section
/-! DEFINITION. The instruction cycle (44_step_cycle.md): fetch, decode, skip, sleep, execute, end of step. -/

namespace Sys2Proof.Machine

/-- The bytes an instruction's fetch reads: its word at `pc` as `pc` stands (R292, with `FETCH_ALIGN` none), and its
continuation word if the length test says one follows (R293). -/
def State.fetchBytes (s : State) : List Byte :=
  s.readBytes s.pc (if hasContinuation (s.readWord s.pc) then 8 else 4)

/-- `pc` past the word at `pc` and past its continuation word, if it has one (R292 to R294; 10_state.md R49). -/
def State.passWord (s : State) : State :=
  s.setPc (s.pc + (if hasContinuation (s.readWord s.pc) then 8#32 else 4#32))

/-- The state decode leaves: `pc` past the instruction, `cost` 1 if a continuation word was read and else 0
(R291, R293). -/
def State.afterDecode (s : State) : State :=
  s.passWord.setCost (if hasContinuation (s.readWord s.pc) then 1 else 0)

/-- The end of a normal step: the step-mode check, then the interrupt controller (R300, R301). -/
def State.endOfStep (s : State) : State := s.stepModeCheck.interruptController

/-- A sleep step: only the interrupt controller runs, at cost 1 (R296). -/
def State.sleepStep (s : State) : State := (s.setCost 1).interruptController

/-- A skip step: the instruction at `pc` is passed over, and skipping goes on if it is an IFxx; cost 1, no interrupt
check (R294, R295, R302, with `INT_CHECK_ON_SKIP` false). -/
def State.skipStep (s : State) : State :=
  (s.passWord.setCost 1).setSkipping (inChainSkipSet (s.readWord s.pc))

/-- A normal step: fetch, decode, execute, end of step (R292, R293, R298, R300, R301). -/
def State.normalStep (s : State) : Result :=
  match decode s.fetchBytes with
  | .error _ => .refused .truncatedInstruction
  | .ok (i, _) =>
    match exec i s.afterDecode with
    | .next t => .next t.endOfStep
    | .fault r => .fault r
    | .refused r => .refused r

/-- One step: `sleeping` is tested first, then `skipping` (R297, R303). -/
def State.cycle (s : State) : Result :=
  if s.sleeping then .next s.sleepStep
  else if s.skipping then .next s.skipStep
  else s.normalStep

/-- Place an instruction's bytes where the next step fetches, and let it fetch: not asleep, not skipping. -/
def State.placeInstruction (s : State) (bytes : List Byte) : State :=
  ((s.writeBytes s.pc bytes).setSleeping false).setSkipping false

end Sys2Proof.Machine
end

