-- ==== Sys2Proof/Machine/Step.lean ====
section
/-! DEFINITION. One step of the machine, `step()` of the control port (44_step_cycle.md R290). -/

namespace Sys2Proof.Machine

/-- `step()`: one instruction executed, or one skipped, or one idle tick asleep (R290). The count it returns stands in
the next state's `cost` (R291). -/
def step (s : State) : Host.Outcome State Fault Refusal := s.cycle

/-- The state with an instruction of an opcode-table row stored at `pc`, where the next step fetches it. -/
def State.withFetchWord (s : State) (nbits w : Nat) : State := s.placeInstruction (tableBytes nbits w)

end Sys2Proof.Machine
end

