-- ==== Sys2Proof/Machine/Ports.lean ====
section
/-! DEFINITION. What the host and devices may do to the core between steps (00_scope.md section 4 and R11): the
control port's `reset()`, `step()` and `tick(n)`, the interrupt request port, the debug port, and memory behind the
bus port, which a device or the host's loader writes between steps. -/

namespace Sys2Proof.Machine

/-- `reset()`: every piece of core state at its reset value, memory untouched (70_reset_and_hazards.md R360, R362). -/
def State.resetCore (s : State) : State := { State.reset with mem := s.mem }

/-- One cycle of `tick`: a step if no idle cycle is left, and one cycle counted down (44_step_cycle.md R310). -/
def tickOnce (s : State) : Result :=
  if s.waitCycles = 0 then
    match step s with
    | .next t => .next (t.setWaitCycles (t.cost - 1))
    | .fault r => .fault r
    | .refused r => .refused r
  else .next (s.setWaitCycles (s.waitCycles - 1))

/-- `tick(n)` (44_step_cycle.md R310). -/
def tick : Nat → State → Result
  | 0, s => .next s
  | n + 1, s =>
    match tickOnce s with
    | .next t => tick n t
    | .fault r => .fault r
    | .refused r => .refused r

/-- What the debug port shows: registers, `pc`, FLAGS and the mode booleans (10_state.md R56). -/
structure DebugView where
  regs : Vector Word 16
  pc : Word
  flags : Word
  interrupt : Bool
  stepMode : Bool
  skipping : Bool
  sleeping : Bool
deriving DecidableEq, Repr

/-- A read through the debug port; it answers a view and no state, since it changes none (10_state.md R56). -/
def State.debugView (s : State) : DebugView where
  regs := s.regs
  pc := s.pc
  flags := s.reg Reg.flags
  interrupt := s.interrupt
  stepMode := s.stepMode
  skipping := s.skipping
  sleeping := s.sleeping

/-- The transitions from outside, each between steps (60_exceptions.md R324, 44_step_cycle.md R311). -/
inductive PortEvent where
  | reset
  | step
  | tick (n : Nat)
  | sendInterrupt (msg : Byte)
  /-- The host sets or clears `step_mode` through the debug port (10_state.md R56). -/
  | setStepMode (b : Bool)
  /-- A device, or the host loading a program, writes a byte of memory (20_memory.md R79, R87;
  70_reset_and_hazards.md R362). -/
  | busWrite (a : Word) (b : Byte)
deriving DecidableEq, Repr

/-- What an event does. A request that EI refuses changes nothing (60_exceptions.md R322, R324). -/
def State.onEvent (s : State) : PortEvent → Result
  | .reset => .next s.resetCore
  | .step => Machine.step s
  | .tick n => Machine.tick n s
  | .sendInterrupt msg => .next (s.sendInterrupt msg).2
  | .setStepMode b => .next (s.setStepMode b)
  | .busWrite a b => .next (s.writeByte a b)

/-- A history of the core: events in the order they come, each between steps (60_exceptions.md R332). -/
def State.onEvents (s : State) : List PortEvent → Result
  | [] => .next s
  | e :: rest =>
    match s.onEvent e with
    | .next t => t.onEvents rest
    | .fault r => .fault r
    | .refused r => .refused r

end Sys2Proof.Machine
end

