-- ==== Sys2Proof/Safety.lean ====
section
/-! DEFINITION. What a good state and a safe run are, in the terms the claims use. -/

namespace Sys2Proof.Machine

/-- The step or meaning answers a next state: no fault, no refusal. -/
def Completes (o : Result) : Prop := ∃ t, o = .next t

/-- `pc` is a multiple of 4 (10_state.md R48). -/
def State.pcAligned (s : State) : Prop := s.pc &&& 3#32 = 0#32

/-- Not asleep and skipping at once: "No rule of this spec sets both at once" (44_step_cycle.md R297). -/
def State.oneMode (s : State) : Prop := ¬(s.sleeping = true ∧ s.skipping = true)

/-- The invariant of the model: memory in its canonical form, and not asleep and skipping at once. -/
def State.Inv (s : State) : Prop := s.mem.wf ∧ s.oneMode

/-- A run of any number of steps reaches no fault and no refusal ("The CPU never aborts", 60_exceptions.md R320). -/
def State.runsForever (s : State) : Prop := ∀ n, ∃ t, Sys2Proof.core.run n s = .next t

end Sys2Proof.Machine
end

