-- ==== Sys2Proof/Certificates/Slice0/Obligations.lean ====
section
/-! DEFINITION. The statements for the provers, and the words they are said in. Every instruction's effect is said over
`exec`, whose state stands after decode: `pc` past the instruction's own words and `cost` holding the continuation
word's cycle (44_step_cycle.md R293). `StepRunsDecodedInstruction` carries them to a step. The spec's decisions
(92_eei_decisions.md) that a statement rests on are named in its docstring, with the log entry. -/

namespace Sys2Proof.Claims

open Sys2Proof.Machine

/-! ### Frames -/

/-- Every register outside the list is as before. -/
def RegsSameBut (ds : List Reg) (s t : State) : Prop := ∀ r, r ∉ ds → t.reg r = s.reg r

/-- Every bit of FLAGS outside the list is as before. -/
def FlagBitsSameBut (bs : List Nat) (s t : State) : Prop :=
  ∀ b, b ∉ bs → (t.reg Reg.flags).getLsbD b = (s.reg Reg.flags).getLsbD b

/-- Every byte of memory reads as before. -/
def MemorySame (s t : State) : Prop := ∀ x, t.readByte x = s.readByte x

/-- `x` is one of the `n` byte addresses from `a` on, modulo 2^32. -/
def InBytes (a : Word) (n : Nat) (x : Word) : Prop := ∃ k < n, x = a + BitVec.ofNat 32 k

/-- Every byte of memory but the `n` from `a` on reads as before. -/
def MemorySameBut (a : Word) (n : Nat) (s t : State) : Prop := ∀ x, ¬ InBytes a n x → t.readByte x = s.readByte x

/-- The control state other than `pc` and `cost` is as before. -/
def ControlSame (s t : State) : Prop :=
  t.waitCycles = s.waitCycles ∧ t.intMsg = s.intMsg ∧ t.interrupt = s.interrupt ∧ t.stepMode = s.stepMode ∧
  t.skipping = s.skipping ∧ t.sleeping = s.sleeping

/-- Nothing but registers and the cycle count changes, and the latter by `k`. -/
def OnlyRegisters (k : Nat) (s t : State) : Prop :=
  t.pc = s.pc ∧ MemorySame s t ∧ ControlSame s t ∧ t.cost = s.cost + k

/-! ### Effects -/

/-- The effect of a P3 ALU instruction: `res` to `x[rd]`, CF and OF written and the other 30 bits of FLAGS kept, unless
FLAGS is the destination and then holds the result (decision D5, log entry 6). -/
def AluEffect (s t : State) (rd : Reg) (res : Word) (cf ovf : Bool) : Prop :=
  t.reg rd = res ∧ RegsSameBut [rd, Reg.flags] s t ∧
  (rd ≠ Reg.flags → t.flag .CF = cf ∧ t.flag .OF = ovf ∧ FlagBitsSameBut [0, 1] s t) ∧ OnlyRegisters 3 s t

/-- The effect of a multiply or a division that writes two registers: `hi` to Y, `lo` to `x[rd]` unless that is Y
(decision D6, log entry 7), CF and OF cleared unless FLAGS is the destination (log entry 6). -/
def WideEffect (k : Nat) (s t : State) (rd : Reg) (lo hi : Word) : Prop :=
  t.reg Reg.y = hi ∧ (rd ≠ Reg.y → t.reg rd = lo) ∧ RegsSameBut [rd, Reg.y, Reg.flags] s t ∧
  (rd ≠ Reg.flags → t.flag .CF = false ∧ t.flag .OF = false ∧ FlagBitsSameBut [0, 1] s t) ∧ OnlyRegisters k s t

/-- The effect of a division by zero: DE set, CF and OF cleared, no other register touched. -/
def ZeroDivisorEffect (k : Nat) (s t : State) : Prop :=
  RegsSameBut [Reg.flags] s t ∧ t.flag .CF = false ∧ t.flag .OF = false ∧ t.flag .DE = true ∧
  FlagBitsSameBut [0, 1, 2] s t ∧ OnlyRegisters k s t

/-- `x[rd] <- v` and nothing else. -/
def RegEffect (s t : State) (rd : Reg) (v : Word) : Prop :=
  t.reg rd = v ∧ RegsSameBut [rd] s t ∧ OnlyRegisters 3 s t

/-- The number that the `n` bytes from an address on make, the first the least significant. -/
def littleEndian (s : State) : Word → Nat → Nat
  | _, 0 => 0
  | a, n + 1 => (s.readByte a).toNat + 256 * littleEndian s (a + 1#32) n

/-- `x[rd]` gets the `n` bytes from `a` on, zero-extended, and nothing else changes. -/
def LoadEffect (s t : State) (rd : Reg) (a : Word) (n : Nat) : Prop :=
  (t.reg rd).toNat = littleEndian s a n ∧ RegsSameBut [rd] s t ∧ OnlyRegisters 3 s t

/-- The `n` low bytes of `v` go to the `n` addresses from `a` on. -/
def BytesStored (t : State) (a : Word) (n : Nat) (v : Word) : Prop :=
  ∀ k < n, (t.readByte (a + BitVec.ofNat 32 k)).toNat = v.toNat / 256 ^ k % 256

/-- The `n` low bytes of `v` are stored at `a`, and nothing else changes. -/
def StoreEffect (s t : State) (a : Word) (n : Nat) (v : Word) : Prop :=
  BytesStored t a n v ∧ MemorySameBut a n s t ∧ RegsSameBut [] s t ∧ t.pc = s.pc ∧ ControlSame s t ∧
  t.cost = s.cost + 3

/-- `target` with its two low bits cleared. -/
def alignedDown (target : Word) : Word := BitVec.ofNat 32 (target.toNat / 4 * 4)

/-- A jump to `target`, aligned down, and nothing else. -/
def JumpEffect (s t : State) (target : Word) : Prop :=
  t.pc = alignedDown target ∧ RegsSameBut [] s t ∧ MemorySame s t ∧ ControlSame s t ∧ t.cost = s.cost + 3

/-- A push of `v`: SP 4 lower, `v` in the four bytes from the new SP up, nothing else of registers and memory. -/
def PushEffect (s t : State) (v : Word) : Prop :=
  t.reg Reg.sp = s.reg Reg.sp - 4#32 ∧ RegsSameBut [Reg.sp] s t ∧ BytesStored t (s.reg Reg.sp - 4#32) 4 v ∧
  MemorySameBut (s.reg Reg.sp - 4#32) 4 s t ∧ ControlSame s t

/-- A call: the address after the instruction pushed, and a jump. -/
def CallEffect (s t : State) (target : Word) : Prop :=
  PushEffect s t s.pc ∧ t.pc = alignedDown target ∧ t.cost = s.cost + 4

/-- A number outside the 32-bit two's complement range. -/
def OutOfRange (n : Int) : Prop := n < -2147483648 ∨ 2147483647 < n

/-! ### Instructions by what they may touch -/

/-- The registers an instruction names as destinations. -/
def named : Instr → List Reg
  | .and rd _ _ | .or rd _ _ | .xor rd _ _ | .bitc rd _ _ | .add rd _ _ | .addc rd _ _ | .sub rd _ _ | .subb rd _ _
  | .rsb rd _ _ | .rsbb rd _ _ | .lls rd _ _ | .rls rd _ _ | .ars rd _ _ | .rotl rd _ _ | .rotr rd _ _
  | .mul rd _ _ | .smul rd _ _ | .div rd _ _ | .sdiv rd _ _ | .load rd _ _ | .loadw rd _ _ | .loadb rd _ _
  | .mov rd _ | .sigxb rd _ | .sigxw rd _ | .not rd _ | .load2 rd _ | .loadw2 rd _ | .loadb2 rd _ => [rd]
  | .swp rd (.reg rs) => [rd, rs]
  | .swp _ (.lit _) | .swp _ (.long _) => []
  | .xchgb (.reg r) | .xchgw (.reg r) | .getpc (.reg r) | .pop (.reg r) => [r]
  | .xchgb (.lit _) | .xchgw (.lit _) | .getpc (.lit _) | .pop (.lit _) => []
  | .xchgb (.long _) | .xchgw (.long _) | .getpc (.long _) | .pop (.long _) => []
  | .store _ _ _ | .storew _ _ _ | .storeb _ _ _ | .store2 _ _ | .storew2 _ _ | .storeb2 _ _ | .jmp2 _ _ | .call2 _ _
  | .ifeq _ _ | .ifneq _ _ | .ifl _ _ | .ifsl _ _ | .ifle _ _ | .ifsle _ _ | .ifbits _ _ | .ifclear _ _
  | .push _ | .jmp _ | .call _ | .rjmp _ | .rcall _ | .int _ | .sleep | .ret | .rfi
  | .unknownP3 _ _ _ _ | .unknownP2 _ _ _ | .unknownP1 _ _ | .unknownNP _ => []

/-- The registers an instruction writes without naming them: FLAGS, Y, SP and `x[0]` (10_state.md R33 to R35, R39). -/
def implied : Instr → List Reg
  | .and _ _ _ | .or _ _ _ | .xor _ _ _ | .bitc _ _ _ | .add _ _ _ | .addc _ _ _ | .sub _ _ _ | .subb _ _ _
  | .rsb _ _ _ | .rsbb _ _ _ | .lls _ _ _ | .rls _ _ _ | .ars _ _ _ | .rotl _ _ _ | .rotr _ _ _ => [Reg.flags]
  | .mul _ _ _ | .smul _ _ _ | .div _ _ _ | .sdiv _ _ _ => [Reg.y, Reg.flags]
  | .pop (.reg _) | .push _ | .call _ | .rcall _ | .call2 _ _ | .ret => [Reg.sp]
  | .rfi => [0, Reg.sp, Reg.flags]
  | .pop (.lit _) | .pop (.long _) | .load _ _ _ | .loadw _ _ _ | .loadb _ _ _ | .store _ _ _ | .storew _ _ _
  | .storeb _ _ _ | .mov _ _ | .swp _ _ | .sigxb _ _ | .sigxw _ _ | .not _ _ | .load2 _ _ | .loadw2 _ _ | .loadb2 _ _
  | .store2 _ _ | .storew2 _ _ | .storeb2 _ _ | .jmp2 _ _ | .ifeq _ _ | .ifneq _ _ | .ifl _ _ | .ifsl _ _
  | .ifle _ _ | .ifsle _ _ | .ifbits _ _ | .ifclear _ _ | .xchgb _ | .xchgw _ | .getpc _ | .jmp _ | .rjmp _ | .int _
  | .sleep | .unknownP3 _ _ _ _ | .unknownP2 _ _ _ | .unknownP1 _ _ | .unknownNP _ => []

/-- The bytes an instruction stores: an address, computed from the state it starts in, and how many bytes. -/
def stored (s : State) : Instr → Option (Word × Nat)
  | .store _ rs rn => some (s.address3 rs rn, 4)
  | .storew _ rs rn => some (s.address3 rs rn, 2)
  | .storeb _ rs rn => some (s.address3 rs rn, 1)
  | .store2 _ rn => some (s.address2 rn, 4)
  | .storew2 _ rn => some (s.address2 rn, 2)
  | .storeb2 _ rn => some (s.address2 rn, 1)
  | .push _ | .call _ | .rcall _ | .call2 _ _ => some (s.reg Reg.sp - 4#32, 4)
  | .and _ _ _ | .or _ _ _ | .xor _ _ _ | .bitc _ _ _ | .add _ _ _ | .addc _ _ _ | .sub _ _ _ | .subb _ _ _
  | .rsb _ _ _ | .rsbb _ _ _ | .lls _ _ _ | .rls _ _ _ | .ars _ _ _ | .rotl _ _ _ | .rotr _ _ _
  | .mul _ _ _ | .smul _ _ _ | .div _ _ _ | .sdiv _ _ _ | .load _ _ _ | .loadw _ _ _ | .loadb _ _ _
  | .mov _ _ | .swp _ _ | .sigxb _ _ | .sigxw _ _ | .not _ _ | .load2 _ _ | .loadw2 _ _ | .loadb2 _ _ | .jmp2 _ _
  | .ifeq _ _ | .ifneq _ _ | .ifl _ _ | .ifsl _ _ | .ifle _ _ | .ifsle _ _ | .ifbits _ _ | .ifclear _ _
  | .xchgb _ | .xchgw _ | .getpc _ | .pop _ | .jmp _ | .rjmp _ | .int _ | .sleep | .ret | .rfi
  | .unknownP3 _ _ _ _ | .unknownP2 _ _ _ | .unknownP1 _ _ | .unknownNP _ => none

/-- The eight conditional skips. -/
def IsIfxx (i : Instr) : Prop :=
  ∃ rd rn, i = .ifeq rd rn ∨ i = .ifneq rd rn ∨ i = .ifl rd rn ∨ i = .ifsl rd rn ∨ i = .ifle rd rn ∨ i = .ifsle rd rn ∨
    i = .ifbits rd rn ∨ i = .ifclear rd rn

/-- The control transfers: jumps, calls and returns. -/
def IsTransfer (i : Instr) : Prop :=
  (∃ rd rn, i = .jmp2 rd rn ∨ i = .call2 rd rn) ∨
  (∃ rn, i = .jmp rn ∨ i = .call rn ∨ i = .rjmp rn ∨ i = .rcall rn) ∨ i = .ret ∨ i = .rfi

/-- The bits of a word that its decoding does not read (30_encoding.md R104 to R107, R109). -/
def ignoredBits (w : Word) : Word :=
  match family w, literalFlag w with
  | .p3, false => 0x007FC210#32
  | .p3, true => 0x00000210#32
  | .p2, false => 0x007FFE10#32
  | .p2, true => 0x00000010#32
  | .p1, false => 0x007FFFF0#32
  | .p1, true => 0#32
  | .np, false => 0x10000000#32
  | .np, true => 0x10000000#32

/-- The address of a message's entry in the vector table at IA, modulo 2^32 (60_exceptions.md R326). -/
def entryAddress (s : State) (msg : Byte) : Word := s.reg Reg.ia + BitVec.ofNat 32 (4 * msg.toNat)

/-- The state after an acceptance with a vector that is not null (60_exceptions.md R327, R329), from the state before. -/
def HandlerEntered (s t : State) (msg : Byte) : Prop :=
  t.pc = s.readWord (entryAddress s msg) ∧ t.reg 0 = BitVec.ofNat 32 msg.toNat ∧
  t.reg Reg.sp = s.reg Reg.sp - 8#32 ∧ RegsSameBut [0, Reg.sp, Reg.flags] s t ∧
  t.flag .IF = true ∧ FlagBitsSameBut [3] s t ∧
  BytesStored t (s.reg Reg.sp - 8#32) 4 s.pc ∧ BytesStored t (s.reg Reg.sp - 4#32) 4 (s.reg 0) ∧
  MemorySameBut (s.reg Reg.sp - 8#32) 8 s t ∧
  t.interrupt = false ∧ t.sleeping = false ∧ t.intMsg = msg ∧ t.stepMode = s.stepMode ∧ t.skipping = s.skipping ∧
  t.waitCycles = s.waitCycles ∧ t.cost = s.cost

/-- The state the interrupt controller acts on in a step from `s`: asleep, `s` at cost 1 (44_step_cycle.md R296); in a
normal step, the state the instruction and the step-mode check leave (R300, R301). A skip step has none (R302). -/
def ControllerActsOn (s u : State) : Prop :=
  (s.sleeping = true ∧ u = { s with cost := 1 }) ∨
  (s.sleeping = false ∧ s.skipping = false ∧ ∃ i rest v, decode s.fetchBytes = .ok (i, rest) ∧
    exec i s.afterDecode = .next v ∧ u = v.stepModeCheck)

end Sys2Proof.Claims

open Sys2Proof Sys2Proof.Machine Sys2Proof.Claims

/-! ### Encoding -/

/-- Decode gives back every well-formed instruction from its encoding, whatever bytes follow. Rests on: a no-op form
or unknown opcode has its continuation word (decision D15, log entry 12). -/
def Obligations.DecodeOfEncodeIsIdentity : Prop :=
  ∀ (i : Instr) (rest : List Byte), i.wf = true → decode (encodeBytes i ++ rest) = .ok (i, rest)

/-- Every word, with any continuation word, decodes to a well-formed instruction; the continuation word is consumed
exactly where the length test says so. Rests on `FAMILY_011` and `NP_OPCODE_MASK` at their defaults (log entries 3,
4). Rests also on: a continuation word is consumed whatever the opcode (decision D15, log entry 12). -/
def Obligations.EveryWordDecodesWellFormed : Prop :=
  ∀ (w c : Word) (rest : List Byte), ∃ i, i.wf = true ∧
    decode (bytesOfWord w ++ (if hasContinuation w then bytesOfWord c ++ rest else rest)) = .ok (i, rest)

/-- Changing any of a word's ignored bits, in any combination, changes nothing of what it decodes to (30_encoding.md
R104 to R107, R109; bit 28 of an NP word by `NP_OPCODE_MASK`, log entry 4). Rests also on: words with top bits 011 are
P3 words (decision D1, log entry 3). -/
def Obligations.IgnoredBitsChangeNothing : Prop :=
  ∀ w c m : Word, m &&& ~~~ignoredBits w = 0#32 → decodeWords (w ^^^ m) c = decodeWords w c

/-- Where a word's register operands stand: RD in bits 3 to 0 and RS of P3 in bits 8 to 5; with L = 0 the RN register in
bits 13 to 10 of P3, 8 to 5 of P2 and 3 to 0 of P1. No other bit of an operand slot counts. -/
def Obligations.RegisterOperandsStandInTheirFields : Prop :=
  ∀ w c : Word,
    let r : Nat → Reg := fun k => Fin.ofNat 16 (w.toNat / 2 ^ k)
    (family w = .p3 → decodeWords w c = decodeP3 (w.extractLsb' 24 6) (r 0) (r 5)
      (if literalFlag w then decodeOperand p3Sentinel true (p3Field w) c else .reg (r 10))) ∧
    (family w = .p2 → decodeWords w c = decodeP2 (w.extractLsb' 24 7) (r 0)
      (if literalFlag w then decodeOperand p2Sentinel true (p2Field w) c else .reg (r 5))) ∧
    (family w = .p1 → decodeWords w c = decodeP1 (w.extractLsb' 24 5)
      (if literalFlag w then decodeOperand p1Sentinel true (p1Field w) c else .reg (r 0)))

/-- The nine worked encodings of 30_encoding.md R127. They rest on `OPCODE_MAP` (log entry 2). -/
def Obligations.WorkedEncodingsDecode : Prop :=
  decode (bytesOfWord 0x44FFFC20#32) = .ok (.add 0 1 (.lit 0xFFFFFFFF#32), []) ∧
  decode (bytesOfWord 0x46800820#32) = .ok (.sub 0 1 (.lit 2#32), []) ∧
  decode (bytesOfWord 0x51000820#32) = .ok (.div 0 1 (.reg 2), []) ∧
  decode (bytesOfWord 0x44C00020#32 ++ bytesOfWord 0xFFFFF000#32) = .ok (.add 0 1 (.long 0xFFFFF000#32), []) ∧
  decode (bytesOfWord 0x80C00000#32 ++ bytesOfWord 0xDEADBEEF#32) = .ok (.mov 0 (.long 0xDEADBEEF#32), []) ∧
  decode (bytesOfWord 0x26C00000#32 ++ bytesOfWord 0x12345678#32) = .ok (.push (.long 0x12345678#32), []) ∧
  decode (bytesOfWord 0x25000003#32) = .ok (.pop (.reg 3), []) ∧
  decode (bytesOfWord 0x2B800005#32) = .ok (.int (.lit 5#32), []) ∧
  decode (bytesOfWord 0x00000000#32) = .ok (.sleep, [])

/-- An in-word literal is its field read as two's complement, and only the exact escape value takes the continuation
word, as it stands; the P1 sign bit is bit 22 (log entry 5). -/
def Obligations.LiteralFieldsSignExtend : Prop :=
  (∀ (f : BitVec 13) (c : Word), decodeOperand p3Sentinel true f c =
    if f.toNat = 0x1000 then .long c else .lit (BitVec.ofInt 32 f.toInt)) ∧
  (∀ (f : BitVec 18) (c : Word), decodeOperand p2Sentinel true f c =
    if f.toNat = 0x20000 then .long c else .lit (BitVec.ofInt 32 f.toInt)) ∧
  (∀ (f : BitVec 23) (c : Word), decodeOperand p1Sentinel true f c =
    if f.toNat = 0x400000 then .long c else .lit (BitVec.ofInt 32 f.toInt))

/-- The chain-skip test on the word agrees with the decoder: exactly the words that decode to an IFxx. Rests on
`CHAIN_SKIP_SET` at its default (log entry 13). -/
def Obligations.ChainSkipSetIsTheConditionals : Prop :=
  ∀ w c : Word, inChainSkipSet w = true ↔ IsIfxx (decodeWords w c)

/-- For every well-formed instruction the first word alone tells whether a second one follows. Rests on: words with
top bits 011 are P3 words (decision D1, log entry 3); the length does not depend on the opcode (decision D15, log
entry 12). -/
def Obligations.FirstWordTellsLength : Prop :=
  ∀ i : Instr, i.wf = true → ∃ w rest, encode i = w :: rest ∧ rest.length = (if hasContinuation w then 1 else 0)

/-! ### Reset and the ports -/

/-- After `reset()` every piece of core state holds the value of the table of R59, and memory is what it was, as R59's
last sentence says (decision D36, log entry 23). -/
def Obligations.ResetValuesAndMemoryKept : Prop :=
  ∀ s : State, (∀ r, s.resetCore.reg r = 0#32) ∧ s.resetCore.pc = 0x00100000#32 ∧ s.resetCore.waitCycles = 0 ∧
    s.resetCore.intMsg = 0#8 ∧ s.resetCore.interrupt = false ∧ s.resetCore.stepMode = false ∧
    s.resetCore.skipping = false ∧ s.resetCore.sleeping = false ∧ s.resetCore.mem = s.mem ∧
    (∀ r, State.reset.reg r = 0#32) ∧ State.reset.pc = 0x00100000#32 ∧ State.reset.waitCycles = 0 ∧
    State.reset.intMsg = 0#8 ∧ State.reset.interrupt = false ∧ State.reset.stepMode = false ∧
    State.reset.skipping = false ∧ State.reset.sleeping = false

/-- SendInterrupt: refused with no change while EI = 0; with EI = 1 it sets the pending flag and the message, over any
request still pending (decision D32, log entry 16). -/
def Obligations.SendInterruptNeedsEI : Prop :=
  ∀ (s : State) (msg : Byte),
    (s.flag .EI = false → s.sendInterrupt msg = (false, s)) ∧
    (s.flag .EI = true → s.sendInterrupt msg = (true, { s with interrupt := true, intMsg := msg }))

/-- `tick` counts idle cycles down and does nothing else while they last; with none left, a tick of exactly the step's
cost runs the step and ends with none left (decision D27, log entry 18). -/
def Obligations.TickSpendsTheStepsCost : Prop :=
  (∀ (n : Nat) (s : State), n ≤ s.waitCycles → tick n s = .next { s with waitCycles := s.waitCycles - n }) ∧
  (∀ s t : State, s.waitCycles = 0 → step s = .next t → tick t.cost s = .next { t with waitCycles := 0 })

/-- No step changes `step_mode` or `wait_cycles`: only the host does, by the debug port and by `tick`. Rests on: only
the host sets `step_mode` (decision D26, log entry 21). -/
def Obligations.StepKeepsHostState : Prop :=
  ∀ s t : State, step s = .next t → t.stepMode = s.stepMode ∧ t.waitCycles = s.waitCycles

/-! ### The step -/

/-- When the bytes at `pc` decode to an instruction, the step runs it, from `pc` past its words and with `cost` the
continuation word's cycle, and then does the step-mode check and runs the interrupt controller. The fetch is at `pc`
as it stands, misaligned or not (decision D20, log entry 19), and `pc` is past the continuation word whatever the
opcode (decisions D21 and D15, log entries 17 and 12). Rests also on: the step-mode check reads IF after the
instruction (decision D37, log entry 21). -/
def Obligations.StepRunsDecodedInstruction : Prop :=
  ∀ (s u : State) (i : Instr) (rest : List Byte), s.sleeping = false → s.skipping = false →
    decode (s.readBytes s.pc (if hasContinuation (s.readWord s.pc) then 8 else 4)) = .ok (i, rest) →
    exec i { s with pc := s.pc + (if hasContinuation (s.readWord s.pc) then 8#32 else 4#32)
                    cost := if hasContinuation (s.readWord s.pc) then 1 else 0 } = .next u →
    step s = .next u.stepModeCheck.interruptController

/-- After the instruction of every normal step: with `step_mode` set and IF = 0, as the instruction left it (decision D37,
log entry 21), the core calls SendInterrupt(0), which EI = 0 refuses and which else takes the pending slot over a
request still pending (decision D32, log entry 16); then the interrupt controller runs. Rests also on: the fetch is at
`pc` as it stands (decision D20, log entry 19); the instruction sees `pc` past its words, whatever the opcode (decisions
D21 and D15, log entries 17 and 12). -/
def Obligations.StepModeCheckRequestsZero : Prop :=
  ∀ (s u : State) (i : Instr) (rest : List Byte), s.sleeping = false → s.skipping = false →
    decode s.fetchBytes = .ok (i, rest) → exec i s.afterDecode = .next u →
    step s = .next (if u.stepMode = true ∧ u.flag .IF = false then
        (if u.flag .EI = true then { u with interrupt := true, intMsg := 0#8 } else u)
      else u).interruptController

/-- A sleep step runs the interrupt controller only, and returns 1. -/
def Obligations.SleepStepRunsControllerOnly : Prop :=
  ∀ s : State, s.sleeping = true → step s = .next { s with cost := 1 }.interruptController

/-- A skip step advances `pc` by the instruction's length and sets `skipping` to the chain-skip test; its cost is 1
and no interrupt is taken. Rests on decisions D16, D17 and D18 (log entries 13, 14). Rests also on: the skipped word
is read at `pc` as `pc` stands, misaligned or not (decision D20, log entry 19). -/
def Obligations.SkipStepPassesOneInstruction : Prop :=
  ∀ s : State, s.sleeping = false → s.skipping = true →
    step s = .next { s with pc := s.pc + (if hasContinuation (s.readWord s.pc) then 8#32 else 4#32)
                            skipping := inChainSkipSet (s.readWord s.pc)
                            cost := 1 }

/-- Every step from every state answers a next state: no fault, no refusal, no exception. -/
def Obligations.EveryStepCompletes : Prop := ∀ s : State, ∃ t, step s = .next t

/-- A run of any length from any state goes on. -/
def Obligations.EveryRunGoesOn : Prop := ∀ s : State, s.runsForever

/-- Every step costs at least 1 cycle and at most 41, a step that takes an interrupt too, since taking one adds no cycle
(decision D28, log entry 18). -/
def Obligations.StepCostBetweenOneAndFortyOne : Prop :=
  ∀ s t : State, step s = .next t → 1 ≤ t.cost ∧ t.cost ≤ 41

/-- The invariant holds after reset. -/
def Obligations.ResetIsGood : Prop := State.reset.Inv

/-- Every step keeps the invariant: memory stays in its canonical form, and the core is never asleep and skipping at
once. -/
def Obligations.StepKeepsGoodState : Prop := ∀ s t : State, s.Inv → step s = .next t → t.Inv

/-- So does every event at the ports. -/
def Obligations.PortEventsKeepGoodState : Prop :=
  ∀ (e : PortEvent) (s t : State), s.Inv → s.onEvent e = .next t → t.Inv

/-! ### P3: logic, arithmetic, shifts -/

/-- AND, OR, XOR and BITC: the result, CF and OF cleared, nothing else. -/
def Obligations.LogicResultsAndFlags : Prop :=
  ∀ (rd rs : Reg) (rn : Operand) (s : State),
    (∃ t, exec (.and rd rs rn) s = .next t ∧ AluEffect s t rd (s.reg rs &&& s.operand rn) false false) ∧
    (∃ t, exec (.or rd rs rn) s = .next t ∧ AluEffect s t rd (s.reg rs ||| s.operand rn) false false) ∧
    (∃ t, exec (.xor rd rs rn) s = .next t ∧ AluEffect s t rd (s.reg rs ^^^ s.operand rn) false false) ∧
    (∃ t, exec (.bitc rd rs rn) s = .next t ∧ AluEffect s t rd (s.reg rs &&& ~~~s.operand rn) false false)

/-- ADD and ADDC: the sum modulo 2^32, CF the carry out of the exact sum, OF by the signs. -/
def Obligations.AdditionResultsAndFlags : Prop :=
  ∀ (rd rs : Reg) (rn : Operand) (s : State),
    (∃ t, exec (.add rd rs rn) s = .next t ∧
      AluEffect s t rd (s.reg rs + s.operand rn)
        (decide (2 ^ 32 ≤ (s.reg rs).toNat + (s.operand rn).toNat))
        ((s.reg rs).msb == (s.operand rn).msb && (s.operand rn).msb != (s.reg rs + s.operand rn).msb)) ∧
    (∃ t, exec (.addc rd rs rn) s = .next t ∧
      AluEffect s t rd (s.reg rs + s.operand rn + BitVec.ofNat 32 (s.flag .CF).toNat)
        (decide (2 ^ 32 ≤ (s.reg rs).toNat + (s.operand rn).toNat + (s.flag .CF).toNat))
        ((s.reg rs).msb == (s.operand rn).msb &&
          (s.operand rn).msb != (s.reg rs + s.operand rn + BitVec.ofNat 32 (s.flag .CF).toNat).msb))

/-- SUB and SUBB: the difference modulo 2^32, CF the unsigned borrow against the exact subtrahend (decision D7, log
entry 8), OF by the signs. -/
def Obligations.SubtractionResultsAndFlags : Prop :=
  ∀ (rd rs : Reg) (rn : Operand) (s : State),
    (∃ t, exec (.sub rd rs rn) s = .next t ∧
      AluEffect s t rd (s.reg rs - s.operand rn)
        (decide ((s.reg rs).toNat < (s.operand rn).toNat))
        ((s.reg rs).msb != (s.operand rn).msb && (s.operand rn).msb == (s.reg rs - s.operand rn).msb)) ∧
    (∃ t, exec (.subb rd rs rn) s = .next t ∧
      AluEffect s t rd (s.reg rs - s.operand rn - BitVec.ofNat 32 (s.flag .CF).toNat)
        (decide ((s.reg rs).toNat < (s.operand rn).toNat + (s.flag .CF).toNat))
        ((s.reg rs).msb != (s.operand rn).msb &&
          (s.operand rn).msb == (s.reg rs - s.operand rn - BitVec.ofNat 32 (s.flag .CF).toNat).msb))

/-- RSB and RSBB are SUB and SUBB with the operands exchanged (log entry 8). -/
def Obligations.ReverseSubtractionResultsAndFlags : Prop :=
  ∀ (rd rs : Reg) (rn : Operand) (s : State),
    (∃ t, exec (.rsb rd rs rn) s = .next t ∧
      AluEffect s t rd (s.operand rn - s.reg rs)
        (decide ((s.operand rn).toNat < (s.reg rs).toNat))
        ((s.operand rn).msb != (s.reg rs).msb && (s.reg rs).msb == (s.operand rn - s.reg rs).msb)) ∧
    (∃ t, exec (.rsbb rd rs rn) s = .next t ∧
      AluEffect s t rd (s.operand rn - s.reg rs - BitVec.ofNat 32 (s.flag .CF).toNat)
        (decide ((s.operand rn).toNat < (s.reg rs).toNat + (s.flag .CF).toNat))
        ((s.operand rn).msb != (s.reg rs).msb &&
          (s.reg rs).msb == (s.operand rn - s.reg rs - BitVec.ofNat 32 (s.flag .CF).toNat).msb))

/-- OF after the six additions and subtractions is the true signed overflow of the exact result, carry or borrow
included, for every input, FLAGS not being the destination. -/
def Obligations.OverflowFlagIsSignedOverflow : Prop :=
  ∀ (rd rs : Reg) (rn : Operand) (s : State), rd ≠ Reg.flags →
    let a := (s.reg rs).toInt
    let b := (s.operand rn).toInt
    let c : Int := (s.flag .CF).toNat
    (∃ t, exec (.add rd rs rn) s = .next t ∧ (t.flag .OF = true ↔ OutOfRange (a + b))) ∧
    (∃ t, exec (.addc rd rs rn) s = .next t ∧ (t.flag .OF = true ↔ OutOfRange (a + b + c))) ∧
    (∃ t, exec (.sub rd rs rn) s = .next t ∧ (t.flag .OF = true ↔ OutOfRange (a - b))) ∧
    (∃ t, exec (.subb rd rs rn) s = .next t ∧ (t.flag .OF = true ↔ OutOfRange (a - b - c))) ∧
    (∃ t, exec (.rsb rd rs rn) s = .next t ∧ (t.flag .OF = true ↔ OutOfRange (b - a))) ∧
    (∃ t, exec (.rsbb rd rs rn) s = .next t ∧ (t.flag .OF = true ↔ OutOfRange (b - a - c)))

/-- LLS, RLS and ARS are the exact shifts of 00_scope.md R18 for every count from 0 to 0xFFFFFFFF, with no masking:
LLS takes bits 31 to 0 and bit 32 of `RS * 2^n`; RLS and ARS take the bits above bit 0, and bit 0, of `floor(2 RS /
2^n)`, unsigned and signed (ARS with large counts exact: decision D13, log entry 11). Rests also on: FLAGS as
destination ends holding the result (decision D5, log entry 6). -/
def Obligations.ShiftsAreExactForEveryCount : Prop :=
  ∀ (rd rs : Reg) (rn : Operand) (s : State),
    let n := (s.operand rn).toNat
    (∃ t, exec (.lls rd rs rn) s = .next t ∧
      AluEffect s t rd (BitVec.ofNat 32 ((s.reg rs).toNat * 2 ^ n)) (((s.reg rs).toNat * 2 ^ n).testBit 32) false) ∧
    (∃ t, exec (.rls rd rs rn) s = .next t ∧
      AluEffect s t rd (BitVec.ofNat 32 ((s.reg rs).toNat * 2 / 2 ^ n / 2))
        (decide ((s.reg rs).toNat * 2 / 2 ^ n % 2 = 1)) false) ∧
    (∃ t, exec (.ars rd rs rn) s = .next t ∧
      AluEffect s t rd (BitVec.ofInt 32 ((s.reg rs).toInt * 2 / 2 ^ n / 2))
        (decide ((s.reg rs).toInt * 2 / 2 ^ n % 2 = 1)) false)

/-- ROTL and ROTR move bit `i` by the count modulo 32, around the word's ends, and clear CF and OF. Rests on: FLAGS as
destination ends holding the result (decision D5, log entry 6). -/
def Obligations.RotatesMoveEveryBit : Prop :=
  ∀ (rd rs : Reg) (rn : Operand) (s : State),
    let n := (s.operand rn).toNat % 32
    (∃ t res, exec (.rotl rd rs rn) s = .next t ∧ AluEffect s t rd res false false ∧
      ∀ i < 32, res.getLsbD ((i + n) % 32) = (s.reg rs).getLsbD i) ∧
    (∃ t res, exec (.rotr rd rs rn) s = .next t ∧ AluEffect s t rd res false false ∧
      ∀ i < 32, res.getLsbD i = (s.reg rs).getLsbD ((i + n) % 32))

/-! ### P3: multiply and divide -/

/-- MUL and SMUL: Y and `x[rd]` hold the high and the low half of the full 64-bit product, unsigned and signed; CF and
OF are cleared (for SMUL decision D10, log entry 10). Rests also on: FLAGS as destination ends holding the result
(decision D5, log entry 6). -/
def Obligations.MultiplyGivesFullProduct : Prop :=
  ∀ (rd rs : Reg) (rn : Operand) (s : State),
    (∃ t lo hi, exec (.mul rd rs rn) s = .next t ∧ WideEffect 20 s t rd lo hi ∧
      hi.toNat * 2 ^ 32 + lo.toNat = (s.reg rs).toNat * (s.operand rn).toNat) ∧
    (∃ t lo hi, exec (.smul rd rs rn) s = .next t ∧ WideEffect 30 s t rd lo hi ∧
      hi.toInt * 2 ^ 32 + lo.toNat = (s.reg rs).toInt * (s.operand rn).toInt)

/-- DIV: quotient to `x[rd]` and remainder to Y, DE kept; a zero divisor sets DE and writes neither (decisions D10 and
D11, log entry 10). Rests also on: FLAGS as destination ends holding the result (decision D5, log entry 6); Y as
destination ends holding the remainder (decision D6, log entry 7). -/
def Obligations.UnsignedDivision : Prop :=
  ∀ (rd rs : Reg) (rn : Operand) (s : State),
    (s.operand rn ≠ 0#32 → ∃ t q r, exec (.div rd rs rn) s = .next t ∧ WideEffect 30 s t rd q r ∧
      (s.reg rs).toNat = q.toNat * (s.operand rn).toNat + r.toNat ∧ r.toNat < (s.operand rn).toNat) ∧
    (s.operand rn = 0#32 → ∃ t, exec (.div rd rs rn) s = .next t ∧ ZeroDivisorEffect 30 s t)

/-- SDIV: the quotient rounds toward zero and the remainder has the dividend's sign (decision D8, log entry 9), but
0x80000000 by -1 gives 0x80000000 and 0 (decision D9, log entry 9); a zero divisor as DIV. Rests also on: FLAGS as
destination ends holding the result (decision D5, log entry 6); Y as destination ends holding the remainder (decision
D6, log entry 7); CF and OF are cleared (decision D10, log entry 10); only a zero divisor writes DE (decision D11, log
entry 10). -/
def Obligations.SignedDivision : Prop :=
  ∀ (rd rs : Reg) (rn : Operand) (s : State),
    (s.operand rn ≠ 0#32 → ∃ t q r, exec (.sdiv rd rs rn) s = .next t ∧ WideEffect 40 s t rd q r ∧
      (if s.reg rs = 0x80000000#32 ∧ s.operand rn = 0xFFFFFFFF#32 then q = 0x80000000#32 ∧ r = 0#32
       else (s.reg rs).toInt = q.toInt * (s.operand rn).toInt + r.toInt ∧
         r.toInt.natAbs < (s.operand rn).toInt.natAbs ∧ (r ≠ 0#32 → (r.toInt < 0 ↔ (s.reg rs).toInt < 0)))) ∧
    (s.operand rn = 0#32 → ∃ t, exec (.sdiv rd rs rn) s = .next t ∧ ZeroDivisorEffect 40 s t)

/-! ### Loads and stores -/

/-- The six loads: `x[rd]` gets 4, 2 or 1 bytes from the effective address, little-endian and zero-extended. Rests on:
no flag is written as a side effect (decision D12, log entry 10); FLAGS as destination takes all 32 bits (decision
D31, log entry 22). -/
def Obligations.LoadsReadLittleEndianZeroExtended : Prop :=
  ∀ (rd rs : Reg) (rn : Operand) (s : State),
    (∃ t, exec (.load rd rs rn) s = .next t ∧ LoadEffect s t rd (s.reg rs + s.operand rn) 4) ∧
    (∃ t, exec (.loadw rd rs rn) s = .next t ∧ LoadEffect s t rd (s.reg rs + s.operand rn) 2) ∧
    (∃ t, exec (.loadb rd rs rn) s = .next t ∧ LoadEffect s t rd (s.reg rs + s.operand rn) 1) ∧
    (∃ t, exec (.load2 rd rn) s = .next t ∧ LoadEffect s t rd (s.operand rn) 4) ∧
    (∃ t, exec (.loadw2 rd rn) s = .next t ∧ LoadEffect s t rd (s.operand rn) 2) ∧
    (∃ t, exec (.loadb2 rd rn) s = .next t ∧ LoadEffect s t rd (s.operand rn) 1)

/-- The six stores: the 4, 2 or 1 low bytes of `x[rd]` to the effective address, little-endian, each byte address
modulo 2^32, and no other byte. Rests on: plain memory holds what was written (decision D25, log entry 20); no flag is
written (decision D12, log entry 10). -/
def Obligations.StoresWriteTheirBytesOnly : Prop :=
  ∀ (rd rs : Reg) (rn : Operand) (s : State),
    (∃ t, exec (.store rd rs rn) s = .next t ∧ StoreEffect s t (s.address3 rs rn) 4 (s.reg rd)) ∧
    (∃ t, exec (.storew rd rs rn) s = .next t ∧ StoreEffect s t (s.address3 rs rn) 2 (s.reg rd)) ∧
    (∃ t, exec (.storeb rd rs rn) s = .next t ∧ StoreEffect s t (s.address3 rs rn) 1 (s.reg rd)) ∧
    (∃ t, exec (.store2 rd rn) s = .next t ∧ StoreEffect s t (s.address2 rn) 4 (s.reg rd)) ∧
    (∃ t, exec (.storew2 rd rn) s = .next t ∧ StoreEffect s t (s.address2 rn) 2 (s.reg rd)) ∧
    (∃ t, exec (.storeb2 rd rn) s = .next t ∧ StoreEffect s t (s.address2 rn) 1 (s.reg rd))

/-- A store and then a load of the same width at the same address give the value back, zero-extended from the width, at
every address (aligned or not, wrapping or not), under the plain-memory default of `BUS` (decision D25; wrapping by byte,
decision D24; log entry 20), and so at no device's address. -/
def Obligations.LoadAfterStoreGivesValue : Prop :=
  ∀ (rd re rs : Reg) (rn : Operand) (s : State),
    (∃ t u, exec (.store rd rs rn) s = .next t ∧ exec (.load re rs rn) t = .next u ∧ u.reg re = s.reg rd) ∧
    (∃ t u, exec (.storew rd rs rn) s = .next t ∧ exec (.loadw re rs rn) t = .next u ∧
      (u.reg re).toNat = (s.reg rd).toNat % 2 ^ 16) ∧
    (∃ t u, exec (.storeb rd rs rn) s = .next t ∧ exec (.loadb re rs rn) t = .next u ∧
      (u.reg re).toNat = (s.reg rd).toNat % 2 ^ 8) ∧
    (∃ t u, exec (.store2 rd rn) s = .next t ∧ exec (.load2 re rn) t = .next u ∧ u.reg re = s.reg rd) ∧
    (∃ t u, exec (.storew2 rd rn) s = .next t ∧ exec (.loadw2 re rn) t = .next u ∧
      (u.reg re).toNat = (s.reg rd).toNat % 2 ^ 16) ∧
    (∃ t u, exec (.storeb2 rd rn) s = .next t ∧ exec (.loadb2 re rn) t = .next u ∧
      (u.reg re).toNat = (s.reg rd).toNat % 2 ^ 8)

/-! ### P2 moves, exchanges, P1 register operations -/

/-- MOV, SIGXB, SIGXW and NOT write `x[rd]` alone: the operand, its low byte or half read as two's complement, its
complement (SIGXB and SIGXW as specified, decision D34, log entry 15). Rests also on: FLAGS as destination takes all
32 bits (decision D31, log entry 22). -/
def Obligations.MovesWriteTheirRegisterOnly : Prop :=
  ∀ (rd : Reg) (rn : Operand) (s : State),
    (∃ t, exec (.mov rd rn) s = .next t ∧ RegEffect s t rd (s.operand rn)) ∧
    (∃ t, exec (.sigxb rd rn) s = .next t ∧
      RegEffect s t rd (BitVec.ofInt 32 ((s.operand rn).setWidth 8).toInt)) ∧
    (∃ t, exec (.sigxw rd rn) s = .next t ∧
      RegEffect s t rd (BitVec.ofInt 32 ((s.operand rn).setWidth 16).toInt)) ∧
    (∃ t, exec (.not rd rn) s = .next t ∧ RegEffect s t rd (BitVec.ofNat 32 (2 ^ 32 - 1 - (s.operand rn).toNat)))

/-- SWP exchanges two registers, one of them FLAGS or both the same included; with a literal it does nothing but cost
its cycles (decision D15, log entry 12). Rests also on: no flag is written as a side effect (decision D12, log entry
10); FLAGS takes all 32 bits (decision D31, log entry 22). -/
def Obligations.SwapExchangesRegisters : Prop :=
  ∀ (rd rs : Reg) (v : Word) (s : State),
    (∃ t, exec (.swp rd (.reg rs)) s = .next t ∧ t.reg rd = s.reg rs ∧ t.reg rs = s.reg rd ∧
      RegsSameBut [rd, rs] s t ∧ OnlyRegisters 3 s t) ∧
    exec (.swp rd (.lit v)) s = .next { s with cost := s.cost + 3 } ∧
    exec (.swp rd (.long v)) s = .next { s with cost := s.cost + 3 }

/-- XCHGB exchanges bytes 0 and 1, XCHGW the half-words, GETPC gives the address after the instruction; with a literal
each does nothing but cost its cycles (decisions D15 and D21, log entries 12, 17). Rests also on: no flag is written
as a side effect (decision D12, log entry 10); FLAGS as the register takes all 32 bits (decision D31, log entry 22).
-/
def Obligations.RegisterOperationsOfP1 : Prop :=
  ∀ (r : Reg) (v : Word) (s : State),
    (∃ t w, exec (.xchgb (.reg r)) s = .next t ∧ RegEffect s t r w ∧ Word.byte w 0 = Word.byte (s.reg r) 1 ∧
      Word.byte w 1 = Word.byte (s.reg r) 0 ∧ Word.byte w 2 = Word.byte (s.reg r) 2 ∧
      Word.byte w 3 = Word.byte (s.reg r) 3) ∧
    (∃ t w, exec (.xchgw (.reg r)) s = .next t ∧ RegEffect s t r w ∧ Word.byte w 0 = Word.byte (s.reg r) 2 ∧
      Word.byte w 1 = Word.byte (s.reg r) 3 ∧ Word.byte w 2 = Word.byte (s.reg r) 0 ∧
      Word.byte w 3 = Word.byte (s.reg r) 1) ∧
    (∃ t, exec (.getpc (.reg r)) s = .next t ∧ RegEffect s t r s.pc) ∧
    (∀ i ∈ [Instr.xchgb (.lit v), .xchgb (.long v), .xchgw (.lit v), .xchgw (.long v), .getpc (.lit v),
        .getpc (.long v), .pop (.lit v), .pop (.long v)], exec i s = .next { s with cost := s.cost + 3 })

/-! ### Conditional skips -/

/-- The eight IFxx: when the predicate holds nothing but the base cost happens; when it fails `skipping` is set at one
cycle more. Nothing else changes. Rests on: no flag is written (decision D12, log entry 10). -/
def Obligations.ConditionalsSkipExactlyWhenFalse : Prop :=
  ∀ (rd : Reg) (rn : Operand) (s : State),
    let a := s.reg rd
    let b := s.operand rn
    let held : Result := .next { s with cost := s.cost + 3 }
    let skips : Result := .next { s with cost := s.cost + 4, skipping := true }
    (exec (.ifeq rd rn) s = if a.toNat = b.toNat then held else skips) ∧
    (exec (.ifneq rd rn) s = if a.toNat = b.toNat then skips else held) ∧
    (exec (.ifl rd rn) s = if a.toNat < b.toNat then held else skips) ∧
    (exec (.ifsl rd rn) s = if a.toInt < b.toInt then held else skips) ∧
    (exec (.ifle rd rn) s = if a.toNat ≤ b.toNat then held else skips) ∧
    (exec (.ifsle rd rn) s = if a.toInt ≤ b.toInt then held else skips) ∧
    (exec (.ifbits rd rn) s = if ∃ k : Fin 32, (a.getLsbD k && b.getLsbD k) = true then held else skips) ∧
    (exec (.ifclear rd rn) s = if ∃ k : Fin 32, (a.getLsbD k && b.getLsbD k) = true then skips else held)

/-! ### The stack, jumps, calls and returns -/

/-- `Push(v)`: SP 4 lower, and the four bytes from the new SP upward hold v little-endian, wherever SP stands; nothing
else of the state changes. -/
def Obligations.PushStoresBelowTheOldTop : Prop :=
  ∀ (s : State) (v : Word), PushEffect s (s.push v) v ∧ (s.push v).pc = s.pc ∧ (s.push v).cost = s.cost

/-- PUSH pushes its operand as decode read it (SP itself included); POP loads the D-word at SP and moves SP past it,
leaving SP at the value plus 4 when SP is the register (decision D23, log entry 17). Rests also on: each byte address
wraps (decision D24, log entry 20); plain memory holds what was written (decision D25, log entry 20); no flag is
written as a side effect (decision D12, log entry 10); POP into FLAGS writes all 32 bits (decision D31, log entry 22).
-/
def Obligations.PushAndPopInstructions : Prop :=
  (∀ (rn : Operand) (s : State), ∃ t, exec (.push rn) s = .next t ∧ PushEffect s t (s.operand rn) ∧ t.pc = s.pc ∧
    t.cost = s.cost + 3) ∧
  (∀ (r : Reg) (s : State), ∃ t, exec (.pop (.reg r)) s = .next t ∧
    (r ≠ Reg.sp → (t.reg r).toNat = littleEndian s (s.reg Reg.sp) 4 ∧ t.reg Reg.sp = s.reg Reg.sp + 4#32) ∧
    (r = Reg.sp → (t.reg Reg.sp - 4#32).toNat = littleEndian s (s.reg Reg.sp) 4) ∧
    RegsSameBut [r, Reg.sp] s t ∧ OnlyRegisters 3 s t)

/-- PUSH and then POP into a register other than SP give the value back and restore SP, wherever SP stands. Rests on:
each byte address wraps (decision D24, log entry 20); plain memory gives back what was pushed (decision D25, log entry
20); no flag is written as a side effect (decision D12, log entry 10); POP into FLAGS writes all 32 bits (decision
D31, log entry 22). -/
def Obligations.PopAfterPushGivesValue : Prop :=
  ∀ (rn : Operand) (r : Reg) (s : State), r ≠ Reg.sp →
    ∃ t u, exec (.push rn) s = .next t ∧ exec (.pop (.reg r)) t = .next u ∧ u.reg r = s.operand rn ∧
      RegsSameBut [r] s u

/-- JMP2, JMP and RJMP go to the target aligned down, RJMP relative to the address after the instruction (decision
D21, log entry 17); nothing else changes. Rests also on: no flag is written (decision D12, log entry 10). -/
def Obligations.JumpsGoToAlignedTargets : Prop :=
  ∀ (rd : Reg) (rn : Operand) (s : State),
    (∃ t, exec (.jmp2 rd rn) s = .next t ∧ JumpEffect s t (s.reg rd + s.operand rn)) ∧
    (∃ t, exec (.jmp rn) s = .next t ∧ JumpEffect s t (s.operand rn)) ∧
    (∃ t, exec (.rjmp rn) s = .next t ∧ JumpEffect s t (s.pc + s.operand rn))

/-- CALL, RCALL and CALL2 push the address after the instruction and go to the target aligned down; CALL2 reads
`x[rd]` after the push and RN before it (decisions D21 and D22, log entry 17). Rests also on: plain memory holds what
was pushed (decision D25, log entry 20); no flag is written (decision D12, log entry 10). -/
def Obligations.CallsPushTheReturnAddress : Prop :=
  ∀ (rd : Reg) (rn : Operand) (s : State),
    (∃ t, exec (.call rn) s = .next t ∧ CallEffect s t (s.operand rn)) ∧
    (∃ t, exec (.rcall rn) s = .next t ∧ CallEffect s t (s.pc + s.operand rn)) ∧
    (∃ t, exec (.call2 rd rn) s = .next t ∧
      CallEffect s t ((if rd = Reg.sp then s.reg Reg.sp - 4#32 else s.reg rd) + s.operand rn))

/-- RET goes to the D-word at SP aligned down and moves SP past it; RFI does so, then pops `x[0]`, clears IF and the
pending flag, and keeps the other 31 bits of FLAGS (RFI aligns too: decision D19, log entry 17). Rests also on: each
byte address wraps (decision D24, log entry 20); RFI keeps `int_msg` (decision D29, log entry 16); RET writes no flag,
RFI only IF (decision D12, log entry 10). -/
def Obligations.ReturnsPopTheirFrame : Prop :=
  ∀ s : State,
    (∃ t, exec .ret s = .next t ∧ t.pc.toNat = littleEndian s (s.reg Reg.sp) 4 / 4 * 4 ∧
      t.reg Reg.sp = s.reg Reg.sp + 4#32 ∧ RegsSameBut [Reg.sp] s t ∧ MemorySame s t ∧ ControlSame s t ∧
      t.cost = s.cost + 4) ∧
    (∃ t, exec .rfi s = .next t ∧ t.pc.toNat = littleEndian s (s.reg Reg.sp) 4 / 4 * 4 ∧
      (t.reg 0).toNat = littleEndian s (s.reg Reg.sp + 4#32) 4 ∧ t.reg Reg.sp = s.reg Reg.sp + 8#32 ∧
      RegsSameBut [0, Reg.sp, Reg.flags] s t ∧ t.flag .IF = false ∧ FlagBitsSameBut [3] s t ∧ MemorySame s t ∧
      t.interrupt = false ∧ t.intMsg = s.intMsg ∧ t.stepMode = s.stepMode ∧ t.skipping = s.skipping ∧
      t.sleeping = s.sleeping ∧ t.waitCycles = s.waitCycles ∧ t.cost = s.cost + 6)

/-- A CALL and then a RET come back to the address after the CALL, when that is aligned, with every register and every
byte outside the four of the frame as before. Rests on: the address after the CALL is past its continuation word
(decision D21, log entry 17); each byte address wraps (decision D24, log entry 20); plain memory gives back what CALL
pushed (decision D25, log entry 20); no flag is written (decision D12, log entry 10). -/
def Obligations.ReturnUndoesCall : Prop :=
  ∀ (rn : Operand) (s : State), s.pcAligned →
    ∃ t u, exec (.call rn) s = .next t ∧ exec .ret t = .next u ∧ u.pc = s.pc ∧ RegsSameBut [] s u ∧
      MemorySameBut (s.reg Reg.sp - 4#32) 4 s u

/-! ### SLEEP, INT, unknown opcodes -/

/-- SLEEP sets `sleeping` and makes the step's cost 1, whatever it had accumulated; INT requests its low byte when EI
= 1 and changes nothing when EI = 0, at the same cost. Rests on: no flag is written (decision D12, log entry 10). -/
def Obligations.SleepAndSoftwareInterrupt : Prop :=
  ∀ (rn : Operand) (s : State),
    exec .sleep s = .next { s with sleeping := true, cost := 1 } ∧
    exec (.int rn) s =
      if s.flag .EI = true then
        .next { s with interrupt := true, intMsg := BitVec.ofNat 8 ((s.operand rn).toNat % 256), cost := s.cost + 6 }
      else .next { s with cost := s.cost + 6 }

/-- The unknown opcodes of the four families change nothing but the cycle count: 3 in P3, P2 and P1, 1 in NP (decision
D14, log entry 12). -/
def Obligations.UnknownOpcodesDoNothing : Prop :=
  ∀ (op3 : BitVec 6) (op2 : BitVec 7) (op1 : BitVec 5) (op0 : BitVec 28) (rd rs : Reg) (rn : Operand) (s : State),
    exec (.unknownP3 op3 rd rs rn) s = .next { s with cost := s.cost + 3 } ∧
    exec (.unknownP2 op2 rd rn) s = .next { s with cost := s.cost + 3 } ∧
    exec (.unknownP1 op1 rn) s = .next { s with cost := s.cost + 3 } ∧
    exec (.unknownNP op0) s = .next { s with cost := s.cost + 1 }

/-! ### Interrupts -/

/-- EI enables interrupts: while EI = 0 every request is refused with no change and a pending one is not accepted (nor is
anything where none is pending); no instruction but one that names `x[15]` as a destination changes EI; acceptance does
not clear it. -/
def Obligations.EnableBitGatesInterrupts : Prop :=
  (∀ (s : State) (msg : Byte), s.flag .EI = false → s.sendInterrupt msg = (false, s)) ∧
  (∀ s : State, s.flag .EI = false ∨ s.interrupt = false → s.interruptController = s) ∧
  (∀ (i : Instr) (s t : State), exec i s = .next t → Reg.flags ∉ named i → t.flag .EI = s.flag .EI) ∧
  (∀ s : State, s.interruptController.flag .EI = s.flag .EI)

/-- A null vector drops the request and changes nothing else; the entry's address wraps and needs no alignment. -/
def Obligations.NullVectorDropsTheRequest : Prop :=
  ∀ s : State, s.interrupt = true → s.flag .EI = true → s.readWord (entryAddress s s.intMsg) = 0#32 →
    s.interruptController = { s with interrupt := false }

/-- An acceptance with a vector that is not null enters the handler: `x[0]` and then `pc` pushed, the message in
`x[0]`, the vector in `pc` unmasked (decision D20, log entry 19), IF set, the request cleared, the core awake; all
that R329 names is kept. Rests also on: each byte address wraps (decision D24, log entry 20); plain memory holds what
was pushed (decision D25, log entry 20). -/
def Obligations.AcceptanceEntersTheHandler : Prop :=
  ∀ s : State, s.interrupt = true → s.flag .EI = true → s.readWord (entryAddress s s.intMsg) ≠ 0#32 →
    HandlerEntered s s.interruptController s.intMsg

/-- RFI right after an acceptance restores `pc` (when aligned), `x[0]`, SP and every other register but IF, which it
clears, and leaves the eight bytes of the frame as the only ones changed. Rests on: each byte address wraps (decision
D24, log entry 20); plain memory gives back what the entry pushed (decision D25, log entry 20). -/
def Obligations.ReturnFromInterruptUndoesAcceptance : Prop :=
  ∀ s : State, s.interrupt = true → s.flag .EI = true → s.readWord (entryAddress s s.intMsg) ≠ 0#32 → s.pcAligned →
    ∃ u, exec .rfi s.interruptController = .next u ∧ u.pc = s.pc ∧ RegsSameBut [Reg.flags] s u ∧
      u.flag .IF = false ∧ FlagBitsSameBut [3] s u ∧ MemorySameBut (s.reg Reg.sp - 8#32) 8 s u ∧
      u.interrupt = false

/-- A step of INT with EI = 1 enters the handler at its own end: of the message INT names, but of message 0 when
`step_mode` is set outside a handler, since the later request overwrites the earlier (decision D32, log entry 16).
Both for a vector that is not null. The entry loads the vector unmasked (decision D20, log entry 19), adds no cycle
(decision D28, log entry 18) and keeps `int_msg` (decision D29, log entry 16). Rests also on: the pushed `pc` is past
the INT and its continuation word (decision D21, log entry 17); each byte address wraps (decision D24, log entry 20);
plain memory holds what was pushed (decision D25, log entry 20). -/
def Obligations.SoftwareInterruptIsTakenAtOnce : Prop :=
  ∀ (s : State) (rn : Operand) (rest : List Byte), s.sleeping = false → s.skipping = false →
    decode s.fetchBytes = .ok (.int rn, rest) → s.flag .EI = true →
    let msg : Byte := if s.stepMode = true ∧ s.flag .IF = false then 0#8
      else BitVec.ofNat 8 ((s.operand rn).toNat % 256)
    s.readWord (entryAddress s msg) ≠ 0#32 →
    ∃ t, step s = .next t ∧ HandlerEntered { s.afterDecode with cost := s.afterDecode.cost + 6 } t msg

/-- Asleep with EI = 0 the core never wakes: after any events at the ports but `reset()`, it is asleep, with every
register and `pc` as they were, and memory too unless a device writes it. Rests on: `sleeping` is tested before
`skipping` (decision D30, log entry 14). -/
def Obligations.SleepWithoutEIIsForever : Prop :=
  ∀ (es : List PortEvent) (s t : State), s.sleeping = true → s.flag .EI = false → PortEvent.reset ∉ es →
    s.onEvents es = .next t →
    t.sleeping = true ∧ (∀ r, t.reg r = s.reg r) ∧ t.pc = s.pc ∧ t.skipping = s.skipping ∧
      t.interrupt = s.interrupt ∧ t.intMsg = s.intMsg ∧ ((∀ a b, PortEvent.busWrite a b ∉ es) → t.mem = s.mem)

/-! ### Rules about every instruction -/

/-- No instruction changes a register that it neither names as a destination nor writes by its own rule. Rests on: an
instruction whose rule states no flag leaves FLAGS alone (decision D12, log entry 10). -/
def Obligations.OnlyWrittenRegistersChange : Prop :=
  ∀ (i : Instr) (s t : State), exec i s = .next t → RegsSameBut (named i ++ implied i) s t

/-- EI, ESS and the reserved bits of FLAGS change only by an instruction that names `x[15]` as a destination. Rests
on: an instruction whose rule states no flag leaves FLAGS alone (decision D12, log entry 10); flag-setting operations
keep the reserved bits (decision D31, log entry 22). -/
def Obligations.ControlBitsOfFlagsNeedAWrite : Prop :=
  ∀ (i : Instr) (s t : State), exec i s = .next t → Reg.flags ∉ named i → FlagBitsSameBut [0, 1, 2, 3] s t

/-- An instruction that stores changes no byte outside those it stores, and every other instruction changes none.
Rests on: each byte address wraps (decision D24, log entry 20); plain memory: other bytes read as before (decision
D25, log entry 20). -/
def Obligations.OnlyStoresChangeMemory : Prop :=
  ∀ (i : Instr) (s t : State), exec i s = .next t →
    match stored s i with
    | none => MemorySame s t
    | some (a, n) => MemorySameBut a n s t

/-- Only SLEEP changes `sleeping`, only an IFxx `skipping`, only INT `int_msg`, only INT and RFI `interrupt`; no
instruction changes `step_mode` or `wait_cycles`. That RFI keeps `int_msg` is decision D29 (log entry 16), and that only the
host sets `step_mode` is decision D26 (log entry 21). -/
def Obligations.ModesChangeOnlyByTheirInstructions : Prop :=
  ∀ (i : Instr) (s t : State), exec i s = .next t →
    (t.sleeping = s.sleeping ∨ i = .sleep) ∧ (t.skipping = s.skipping ∨ IsIfxx i) ∧
    (t.intMsg = s.intMsg ∨ ∃ rn, i = .int rn) ∧ (t.interrupt = s.interrupt ∨ (∃ rn, i = .int rn) ∨ i = .rfi) ∧
    t.stepMode = s.stepMode ∧ t.waitCycles = s.waitCycles

/-- An instruction that is no jump, call or return leaves `pc` where decode put it, and those leave it aligned. Rests
on: RFI aligns the `pc` it pops (decision D19, log entry 17). -/
def Obligations.TransfersLeavePcAligned : Prop :=
  ∀ (i : Instr) (s t : State), exec i s = .next t → (¬ IsTransfer i ∧ t.pc = s.pc) ∨ (IsTransfer i ∧ t.pcAligned)

/-- A step from an aligned `pc` leaves it aligned, unless its interrupt controller took a request: that was pending
with EI = 1, its entry in the vector table was not null, and `pc` is that entry as it stands, the handler entered.
Rests on the unmasked vector (decision D20, log entry 19), the aligned RFI and the `pc` past the instruction's words
(decisions D19, D21, log entry 17), no controller in a skip step (decision D18, log entry 14), and, in what else the
entry leaves, acceptance at no cost (decision D28, log entry 18) with `int_msg` kept (decision D29, log entry 16).
Rests also on: `sleeping` is tested before `skipping` (decision D30, log entry 14); the step-mode check reads IF after
the instruction (decision D37, log entry 21); plain memory holds what the entry pushed (decision D25, log entry 20).
-/
def Obligations.PcMisalignsOnlyByAVector : Prop :=
  ∀ s t : State, s.pcAligned → step s = .next t →
    t.pcAligned ∨ ∃ u, ControllerActsOn s u ∧ u.interrupt = true ∧ u.flag .EI = true ∧
      u.readWord (entryAddress u u.intMsg) ≠ 0#32 ∧ t.pc = u.readWord (entryAddress u u.intMsg) ∧
      HandlerEntered u t u.intMsg
end

