-- ==== Sys2Proof/Laws/State.lean ====
section
/-! SUPPORT. One lemma per field per update of the state, and the same through the three ways a claim looks at it: a
register, a flag, a byte of memory. -/

namespace Sys2Proof.Machine

variable (s : State)

/-! ### The registers with a part of their own are different ones (10_state.md R31) -/

@[simp] theorem reg_zero_ne_y : ¬ (0 : Reg) = Reg.y := by decide
@[simp] theorem reg_zero_ne_sp : ¬ (0 : Reg) = Reg.sp := by decide
@[simp] theorem reg_zero_ne_ia : ¬ (0 : Reg) = Reg.ia := by decide
@[simp] theorem reg_zero_ne_flags : ¬ (0 : Reg) = Reg.flags := by decide
@[simp] theorem reg_y_ne_zero : ¬ Reg.y = (0 : Reg) := by decide
@[simp] theorem reg_y_ne_sp : ¬ Reg.y = Reg.sp := by decide
@[simp] theorem reg_y_ne_ia : ¬ Reg.y = Reg.ia := by decide
@[simp] theorem reg_y_ne_flags : ¬ Reg.y = Reg.flags := by decide
@[simp] theorem reg_sp_ne_zero : ¬ Reg.sp = (0 : Reg) := by decide
@[simp] theorem reg_sp_ne_y : ¬ Reg.sp = Reg.y := by decide
@[simp] theorem reg_sp_ne_ia : ¬ Reg.sp = Reg.ia := by decide
@[simp] theorem reg_sp_ne_flags : ¬ Reg.sp = Reg.flags := by decide
@[simp] theorem reg_ia_ne_zero : ¬ Reg.ia = (0 : Reg) := by decide
@[simp] theorem reg_ia_ne_y : ¬ Reg.ia = Reg.y := by decide
@[simp] theorem reg_ia_ne_sp : ¬ Reg.ia = Reg.sp := by decide
@[simp] theorem reg_ia_ne_flags : ¬ Reg.ia = Reg.flags := by decide
@[simp] theorem reg_flags_ne_zero : ¬ Reg.flags = (0 : Reg) := by decide
@[simp] theorem reg_flags_ne_y : ¬ Reg.flags = Reg.y := by decide
@[simp] theorem reg_flags_ne_sp : ¬ Reg.flags = Reg.sp := by decide
@[simp] theorem reg_flags_ne_ia : ¬ Reg.flags = Reg.ia := by decide

/-! ### setReg -/

@[simp] theorem setReg_pc (r : Reg) (v : Word) : (s.setReg r v).pc = s.pc := rfl
@[simp] theorem setReg_waitCycles (r : Reg) (v : Word) : (s.setReg r v).waitCycles = s.waitCycles := rfl
@[simp] theorem setReg_intMsg (r : Reg) (v : Word) : (s.setReg r v).intMsg = s.intMsg := rfl
@[simp] theorem setReg_interrupt (r : Reg) (v : Word) : (s.setReg r v).interrupt = s.interrupt := rfl
@[simp] theorem setReg_stepMode (r : Reg) (v : Word) : (s.setReg r v).stepMode = s.stepMode := rfl
@[simp] theorem setReg_skipping (r : Reg) (v : Word) : (s.setReg r v).skipping = s.skipping := rfl
@[simp] theorem setReg_sleeping (r : Reg) (v : Word) : (s.setReg r v).sleeping = s.sleeping := rfl
@[simp] theorem setReg_mem (r : Reg) (v : Word) : (s.setReg r v).mem = s.mem := rfl
@[simp] theorem setReg_cost (r : Reg) (v : Word) : (s.setReg r v).cost = s.cost := rfl
@[simp] theorem setReg_readByte (r : Reg) (v : Word) (x : Word) : (s.setReg r v).readByte x = s.readByte x := rfl

/-! ### setPc -/

@[simp] theorem setPc_regs (v : Word) : (s.setPc v).regs = s.regs := rfl
@[simp] theorem setPc_pc (v : Word) : (s.setPc v).pc = v := rfl
@[simp] theorem setPc_waitCycles (v : Word) : (s.setPc v).waitCycles = s.waitCycles := rfl
@[simp] theorem setPc_intMsg (v : Word) : (s.setPc v).intMsg = s.intMsg := rfl
@[simp] theorem setPc_interrupt (v : Word) : (s.setPc v).interrupt = s.interrupt := rfl
@[simp] theorem setPc_stepMode (v : Word) : (s.setPc v).stepMode = s.stepMode := rfl
@[simp] theorem setPc_skipping (v : Word) : (s.setPc v).skipping = s.skipping := rfl
@[simp] theorem setPc_sleeping (v : Word) : (s.setPc v).sleeping = s.sleeping := rfl
@[simp] theorem setPc_mem (v : Word) : (s.setPc v).mem = s.mem := rfl
@[simp] theorem setPc_cost (v : Word) : (s.setPc v).cost = s.cost := rfl
@[simp] theorem setPc_reg (v : Word) (q : Reg) : (s.setPc v).reg q = s.reg q := rfl
@[simp] theorem setPc_flag (v : Word) (f : Flag) : (s.setPc v).flag f = s.flag f := rfl
@[simp] theorem setPc_readByte (v : Word) (x : Word) : (s.setPc v).readByte x = s.readByte x := rfl

/-! ### setWaitCycles -/

@[simp] theorem setWaitCycles_regs (n : Nat) : (s.setWaitCycles n).regs = s.regs := rfl
@[simp] theorem setWaitCycles_pc (n : Nat) : (s.setWaitCycles n).pc = s.pc := rfl
@[simp] theorem setWaitCycles_waitCycles (n : Nat) : (s.setWaitCycles n).waitCycles = n := rfl
@[simp] theorem setWaitCycles_intMsg (n : Nat) : (s.setWaitCycles n).intMsg = s.intMsg := rfl
@[simp] theorem setWaitCycles_interrupt (n : Nat) : (s.setWaitCycles n).interrupt = s.interrupt := rfl
@[simp] theorem setWaitCycles_stepMode (n : Nat) : (s.setWaitCycles n).stepMode = s.stepMode := rfl
@[simp] theorem setWaitCycles_skipping (n : Nat) : (s.setWaitCycles n).skipping = s.skipping := rfl
@[simp] theorem setWaitCycles_sleeping (n : Nat) : (s.setWaitCycles n).sleeping = s.sleeping := rfl
@[simp] theorem setWaitCycles_mem (n : Nat) : (s.setWaitCycles n).mem = s.mem := rfl
@[simp] theorem setWaitCycles_cost (n : Nat) : (s.setWaitCycles n).cost = s.cost := rfl
@[simp] theorem setWaitCycles_reg (n : Nat) (q : Reg) : (s.setWaitCycles n).reg q = s.reg q := rfl
@[simp] theorem setWaitCycles_flag (n : Nat) (f : Flag) : (s.setWaitCycles n).flag f = s.flag f := rfl
@[simp] theorem setWaitCycles_readByte (n : Nat) (x : Word) : (s.setWaitCycles n).readByte x = s.readByte x := rfl

/-! ### setIntMsg -/

@[simp] theorem setIntMsg_regs (v : Byte) : (s.setIntMsg v).regs = s.regs := rfl
@[simp] theorem setIntMsg_pc (v : Byte) : (s.setIntMsg v).pc = s.pc := rfl
@[simp] theorem setIntMsg_waitCycles (v : Byte) : (s.setIntMsg v).waitCycles = s.waitCycles := rfl
@[simp] theorem setIntMsg_intMsg (v : Byte) : (s.setIntMsg v).intMsg = v := rfl
@[simp] theorem setIntMsg_interrupt (v : Byte) : (s.setIntMsg v).interrupt = s.interrupt := rfl
@[simp] theorem setIntMsg_stepMode (v : Byte) : (s.setIntMsg v).stepMode = s.stepMode := rfl
@[simp] theorem setIntMsg_skipping (v : Byte) : (s.setIntMsg v).skipping = s.skipping := rfl
@[simp] theorem setIntMsg_sleeping (v : Byte) : (s.setIntMsg v).sleeping = s.sleeping := rfl
@[simp] theorem setIntMsg_mem (v : Byte) : (s.setIntMsg v).mem = s.mem := rfl
@[simp] theorem setIntMsg_cost (v : Byte) : (s.setIntMsg v).cost = s.cost := rfl
@[simp] theorem setIntMsg_reg (v : Byte) (q : Reg) : (s.setIntMsg v).reg q = s.reg q := rfl
@[simp] theorem setIntMsg_flag (v : Byte) (f : Flag) : (s.setIntMsg v).flag f = s.flag f := rfl
@[simp] theorem setIntMsg_readByte (v : Byte) (x : Word) : (s.setIntMsg v).readByte x = s.readByte x := rfl

/-! ### setInterrupt -/

@[simp] theorem setInterrupt_regs (b : Bool) : (s.setInterrupt b).regs = s.regs := rfl
@[simp] theorem setInterrupt_pc (b : Bool) : (s.setInterrupt b).pc = s.pc := rfl
@[simp] theorem setInterrupt_waitCycles (b : Bool) : (s.setInterrupt b).waitCycles = s.waitCycles := rfl
@[simp] theorem setInterrupt_intMsg (b : Bool) : (s.setInterrupt b).intMsg = s.intMsg := rfl
@[simp] theorem setInterrupt_interrupt (b : Bool) : (s.setInterrupt b).interrupt = b := rfl
@[simp] theorem setInterrupt_stepMode (b : Bool) : (s.setInterrupt b).stepMode = s.stepMode := rfl
@[simp] theorem setInterrupt_skipping (b : Bool) : (s.setInterrupt b).skipping = s.skipping := rfl
@[simp] theorem setInterrupt_sleeping (b : Bool) : (s.setInterrupt b).sleeping = s.sleeping := rfl
@[simp] theorem setInterrupt_mem (b : Bool) : (s.setInterrupt b).mem = s.mem := rfl
@[simp] theorem setInterrupt_cost (b : Bool) : (s.setInterrupt b).cost = s.cost := rfl
@[simp] theorem setInterrupt_reg (b : Bool) (q : Reg) : (s.setInterrupt b).reg q = s.reg q := rfl
@[simp] theorem setInterrupt_flag (b : Bool) (f : Flag) : (s.setInterrupt b).flag f = s.flag f := rfl
@[simp] theorem setInterrupt_readByte (b : Bool) (x : Word) : (s.setInterrupt b).readByte x = s.readByte x := rfl

/-! ### setStepMode -/

@[simp] theorem setStepMode_regs (b : Bool) : (s.setStepMode b).regs = s.regs := rfl
@[simp] theorem setStepMode_pc (b : Bool) : (s.setStepMode b).pc = s.pc := rfl
@[simp] theorem setStepMode_waitCycles (b : Bool) : (s.setStepMode b).waitCycles = s.waitCycles := rfl
@[simp] theorem setStepMode_intMsg (b : Bool) : (s.setStepMode b).intMsg = s.intMsg := rfl
@[simp] theorem setStepMode_interrupt (b : Bool) : (s.setStepMode b).interrupt = s.interrupt := rfl
@[simp] theorem setStepMode_stepMode (b : Bool) : (s.setStepMode b).stepMode = b := rfl
@[simp] theorem setStepMode_skipping (b : Bool) : (s.setStepMode b).skipping = s.skipping := rfl
@[simp] theorem setStepMode_sleeping (b : Bool) : (s.setStepMode b).sleeping = s.sleeping := rfl
@[simp] theorem setStepMode_mem (b : Bool) : (s.setStepMode b).mem = s.mem := rfl
@[simp] theorem setStepMode_cost (b : Bool) : (s.setStepMode b).cost = s.cost := rfl
@[simp] theorem setStepMode_reg (b : Bool) (q : Reg) : (s.setStepMode b).reg q = s.reg q := rfl
@[simp] theorem setStepMode_flag (b : Bool) (f : Flag) : (s.setStepMode b).flag f = s.flag f := rfl
@[simp] theorem setStepMode_readByte (b : Bool) (x : Word) : (s.setStepMode b).readByte x = s.readByte x := rfl

/-! ### setSkipping -/

@[simp] theorem setSkipping_regs (b : Bool) : (s.setSkipping b).regs = s.regs := rfl
@[simp] theorem setSkipping_pc (b : Bool) : (s.setSkipping b).pc = s.pc := rfl
@[simp] theorem setSkipping_waitCycles (b : Bool) : (s.setSkipping b).waitCycles = s.waitCycles := rfl
@[simp] theorem setSkipping_intMsg (b : Bool) : (s.setSkipping b).intMsg = s.intMsg := rfl
@[simp] theorem setSkipping_interrupt (b : Bool) : (s.setSkipping b).interrupt = s.interrupt := rfl
@[simp] theorem setSkipping_stepMode (b : Bool) : (s.setSkipping b).stepMode = s.stepMode := rfl
@[simp] theorem setSkipping_skipping (b : Bool) : (s.setSkipping b).skipping = b := rfl
@[simp] theorem setSkipping_sleeping (b : Bool) : (s.setSkipping b).sleeping = s.sleeping := rfl
@[simp] theorem setSkipping_mem (b : Bool) : (s.setSkipping b).mem = s.mem := rfl
@[simp] theorem setSkipping_cost (b : Bool) : (s.setSkipping b).cost = s.cost := rfl
@[simp] theorem setSkipping_reg (b : Bool) (q : Reg) : (s.setSkipping b).reg q = s.reg q := rfl
@[simp] theorem setSkipping_flag (b : Bool) (f : Flag) : (s.setSkipping b).flag f = s.flag f := rfl
@[simp] theorem setSkipping_readByte (b : Bool) (x : Word) : (s.setSkipping b).readByte x = s.readByte x := rfl

/-! ### setSleeping -/

@[simp] theorem setSleeping_regs (b : Bool) : (s.setSleeping b).regs = s.regs := rfl
@[simp] theorem setSleeping_pc (b : Bool) : (s.setSleeping b).pc = s.pc := rfl
@[simp] theorem setSleeping_waitCycles (b : Bool) : (s.setSleeping b).waitCycles = s.waitCycles := rfl
@[simp] theorem setSleeping_intMsg (b : Bool) : (s.setSleeping b).intMsg = s.intMsg := rfl
@[simp] theorem setSleeping_interrupt (b : Bool) : (s.setSleeping b).interrupt = s.interrupt := rfl
@[simp] theorem setSleeping_stepMode (b : Bool) : (s.setSleeping b).stepMode = s.stepMode := rfl
@[simp] theorem setSleeping_skipping (b : Bool) : (s.setSleeping b).skipping = s.skipping := rfl
@[simp] theorem setSleeping_sleeping (b : Bool) : (s.setSleeping b).sleeping = b := rfl
@[simp] theorem setSleeping_mem (b : Bool) : (s.setSleeping b).mem = s.mem := rfl
@[simp] theorem setSleeping_cost (b : Bool) : (s.setSleeping b).cost = s.cost := rfl
@[simp] theorem setSleeping_reg (b : Bool) (q : Reg) : (s.setSleeping b).reg q = s.reg q := rfl
@[simp] theorem setSleeping_flag (b : Bool) (f : Flag) : (s.setSleeping b).flag f = s.flag f := rfl
@[simp] theorem setSleeping_readByte (b : Bool) (x : Word) : (s.setSleeping b).readByte x = s.readByte x := rfl

/-! ### writeByte -/

@[simp] theorem writeByte_regs (a : Word) (b : Byte) : (s.writeByte a b).regs = s.regs := rfl
@[simp] theorem writeByte_pc (a : Word) (b : Byte) : (s.writeByte a b).pc = s.pc := rfl
@[simp] theorem writeByte_waitCycles (a : Word) (b : Byte) : (s.writeByte a b).waitCycles = s.waitCycles := rfl
@[simp] theorem writeByte_intMsg (a : Word) (b : Byte) : (s.writeByte a b).intMsg = s.intMsg := rfl
@[simp] theorem writeByte_interrupt (a : Word) (b : Byte) : (s.writeByte a b).interrupt = s.interrupt := rfl
@[simp] theorem writeByte_stepMode (a : Word) (b : Byte) : (s.writeByte a b).stepMode = s.stepMode := rfl
@[simp] theorem writeByte_skipping (a : Word) (b : Byte) : (s.writeByte a b).skipping = s.skipping := rfl
@[simp] theorem writeByte_sleeping (a : Word) (b : Byte) : (s.writeByte a b).sleeping = s.sleeping := rfl
@[simp] theorem writeByte_mem (a : Word) (b : Byte) : (s.writeByte a b).mem = s.mem.write a.toNat b := rfl
@[simp] theorem writeByte_cost (a : Word) (b : Byte) : (s.writeByte a b).cost = s.cost := rfl
@[simp] theorem writeByte_reg (a : Word) (b : Byte) (q : Reg) : (s.writeByte a b).reg q = s.reg q := rfl
@[simp] theorem writeByte_flag (a : Word) (b : Byte) (f : Flag) : (s.writeByte a b).flag f = s.flag f := rfl

/-! ### setCost -/

@[simp] theorem setCost_regs (k : Nat) : (s.setCost k).regs = s.regs := rfl
@[simp] theorem setCost_pc (k : Nat) : (s.setCost k).pc = s.pc := rfl
@[simp] theorem setCost_waitCycles (k : Nat) : (s.setCost k).waitCycles = s.waitCycles := rfl
@[simp] theorem setCost_intMsg (k : Nat) : (s.setCost k).intMsg = s.intMsg := rfl
@[simp] theorem setCost_interrupt (k : Nat) : (s.setCost k).interrupt = s.interrupt := rfl
@[simp] theorem setCost_stepMode (k : Nat) : (s.setCost k).stepMode = s.stepMode := rfl
@[simp] theorem setCost_skipping (k : Nat) : (s.setCost k).skipping = s.skipping := rfl
@[simp] theorem setCost_sleeping (k : Nat) : (s.setCost k).sleeping = s.sleeping := rfl
@[simp] theorem setCost_mem (k : Nat) : (s.setCost k).mem = s.mem := rfl
@[simp] theorem setCost_cost (k : Nat) : (s.setCost k).cost = k := rfl
@[simp] theorem setCost_reg (k : Nat) (q : Reg) : (s.setCost k).reg q = s.reg q := rfl
@[simp] theorem setCost_flag (k : Nat) (f : Flag) : (s.setCost k).flag f = s.flag f := rfl
@[simp] theorem setCost_readByte (k : Nat) (x : Word) : (s.setCost k).readByte x = s.readByte x := rfl

/-! ### addCost -/

@[simp] theorem addCost_regs (k : Nat) : (s.addCost k).regs = s.regs := rfl
@[simp] theorem addCost_pc (k : Nat) : (s.addCost k).pc = s.pc := rfl
@[simp] theorem addCost_waitCycles (k : Nat) : (s.addCost k).waitCycles = s.waitCycles := rfl
@[simp] theorem addCost_intMsg (k : Nat) : (s.addCost k).intMsg = s.intMsg := rfl
@[simp] theorem addCost_interrupt (k : Nat) : (s.addCost k).interrupt = s.interrupt := rfl
@[simp] theorem addCost_stepMode (k : Nat) : (s.addCost k).stepMode = s.stepMode := rfl
@[simp] theorem addCost_skipping (k : Nat) : (s.addCost k).skipping = s.skipping := rfl
@[simp] theorem addCost_sleeping (k : Nat) : (s.addCost k).sleeping = s.sleeping := rfl
@[simp] theorem addCost_mem (k : Nat) : (s.addCost k).mem = s.mem := rfl
@[simp] theorem addCost_cost (k : Nat) : (s.addCost k).cost = s.cost + k := rfl
@[simp] theorem addCost_reg (k : Nat) (q : Reg) : (s.addCost k).reg q = s.reg q := rfl
@[simp] theorem addCost_flag (k : Nat) (f : Flag) : (s.addCost k).flag f = s.flag f := rfl
@[simp] theorem addCost_readByte (k : Nat) (x : Word) : (s.addCost k).readByte x = s.readByte x := rfl

/-! ### Registers and flags -/

@[simp] theorem setReg_reg (r : Reg) (v : Word) (q : Reg) :
    (s.setReg r v).reg q = if q = r then v else s.reg q := by
  simp only [State.reg, State.setReg, Vector.get_eq_getElem, Vector.getElem_set, Fin.ext_iff, eq_comm]

theorem setReg_flag (r : Reg) (v : Word) (f : Flag) :
    (s.setReg r v).flag f = if Reg.flags = r then v.getLsbD f.bit else s.flag f := by
  simp only [State.flag, setReg_reg]; split <;> rfl

@[simp] theorem flag_bit_lt (f : Flag) : f.bit < 32 := by cases f <;> decide

theorem flag_bit_injective {f g : Flag} (h : f.bit = g.bit) : f = g := by
  cases f <;> cases g <;> first | rfl | (exact absurd h (by decide))

/-- Writing one bit changes that bit and no other (10_state.md R46). -/
@[simp] theorem setBit_getLsbD (w : Word) (i : Nat) (b : Bool) (j : Nat) :
    (setBit w i b).getLsbD j = if j = i ∧ j < 32 then b else w.getLsbD j := by
  by_cases hj : j < 32
  · by_cases h : j = i
    · subst h; cases b <;> simp [setBit, hj]
    · cases b <;> simp [setBit, hj, h]
  · simp [hj, BitVec.getLsbD_of_ge _ _ (Nat.le_of_not_lt hj)]

@[simp] theorem setBit_getElem (w : Word) (i : Nat) (b : Bool) (j : Nat) (hj : j < 32) :
    (setBit w i b)[j] = if j = i then b else w[j] := by
  rw [← BitVec.getLsbD_eq_getElem, setBit_getLsbD, ← BitVec.getLsbD_eq_getElem]; simp [hj]

/-- A flag write touches no register but FLAGS. -/
@[simp] theorem setFlag_reg (f : Flag) (b : Bool) (q : Reg) :
    (s.setFlag f b).reg q = if q = Reg.flags then setBit (s.reg Reg.flags) f.bit b else s.reg q := by
  simp [State.setFlag]

@[simp] theorem setFlag_flag (f : Flag) (b : Bool) (g : Flag) :
    (s.setFlag f b).flag g = if g = f then b else s.flag g := by
  by_cases h : g = f
  · subst h; simp [State.flag]
  · have : g.bit ≠ f.bit := fun e => h (flag_bit_injective e)
    simp [State.flag, h, this]

/-! ### setFlag -/

@[simp] theorem setFlag_pc (f : Flag) (b : Bool) : (s.setFlag f b).pc = s.pc := rfl
@[simp] theorem setFlag_waitCycles (f : Flag) (b : Bool) : (s.setFlag f b).waitCycles = s.waitCycles := rfl
@[simp] theorem setFlag_intMsg (f : Flag) (b : Bool) : (s.setFlag f b).intMsg = s.intMsg := rfl
@[simp] theorem setFlag_interrupt (f : Flag) (b : Bool) : (s.setFlag f b).interrupt = s.interrupt := rfl
@[simp] theorem setFlag_stepMode (f : Flag) (b : Bool) : (s.setFlag f b).stepMode = s.stepMode := rfl
@[simp] theorem setFlag_skipping (f : Flag) (b : Bool) : (s.setFlag f b).skipping = s.skipping := rfl
@[simp] theorem setFlag_sleeping (f : Flag) (b : Bool) : (s.setFlag f b).sleeping = s.sleeping := rfl
@[simp] theorem setFlag_mem (f : Flag) (b : Bool) : (s.setFlag f b).mem = s.mem := rfl
@[simp] theorem setFlag_cost (f : Flag) (b : Bool) : (s.setFlag f b).cost = s.cost := rfl
@[simp] theorem setFlag_readByte (f : Flag) (b : Bool) (x : Word) : (s.setFlag f b).readByte x = s.readByte x := rfl

/-! ### jump -/

@[simp] theorem jump_regs (v : Word) : (s.jump v).regs = s.regs := rfl
@[simp] theorem jump_waitCycles (v : Word) : (s.jump v).waitCycles = s.waitCycles := rfl
@[simp] theorem jump_intMsg (v : Word) : (s.jump v).intMsg = s.intMsg := rfl
@[simp] theorem jump_interrupt (v : Word) : (s.jump v).interrupt = s.interrupt := rfl
@[simp] theorem jump_stepMode (v : Word) : (s.jump v).stepMode = s.stepMode := rfl
@[simp] theorem jump_skipping (v : Word) : (s.jump v).skipping = s.skipping := rfl
@[simp] theorem jump_sleeping (v : Word) : (s.jump v).sleeping = s.sleeping := rfl
@[simp] theorem jump_mem (v : Word) : (s.jump v).mem = s.mem := rfl
@[simp] theorem jump_cost (v : Word) : (s.jump v).cost = s.cost := rfl
@[simp] theorem jump_reg (v : Word) (q : Reg) : (s.jump v).reg q = s.reg q := rfl
@[simp] theorem jump_flag (v : Word) (f : Flag) : (s.jump v).flag f = s.flag f := rfl
@[simp] theorem jump_readByte (v : Word) (x : Word) : (s.jump v).readByte x = s.readByte x := rfl
@[simp] theorem jump_pc (v : Word) : (s.jump v).pc = alignTarget v := rfl

/-! ### writeAlu -/

@[simp] theorem writeAlu_pc (rd : Reg) (out : AluOut) : (s.writeAlu rd out).pc = s.pc := rfl
@[simp] theorem writeAlu_waitCycles (rd : Reg) (out : AluOut) : (s.writeAlu rd out).waitCycles = s.waitCycles := rfl
@[simp] theorem writeAlu_intMsg (rd : Reg) (out : AluOut) : (s.writeAlu rd out).intMsg = s.intMsg := rfl
@[simp] theorem writeAlu_interrupt (rd : Reg) (out : AluOut) : (s.writeAlu rd out).interrupt = s.interrupt := rfl
@[simp] theorem writeAlu_stepMode (rd : Reg) (out : AluOut) : (s.writeAlu rd out).stepMode = s.stepMode := rfl
@[simp] theorem writeAlu_skipping (rd : Reg) (out : AluOut) : (s.writeAlu rd out).skipping = s.skipping := rfl
@[simp] theorem writeAlu_sleeping (rd : Reg) (out : AluOut) : (s.writeAlu rd out).sleeping = s.sleeping := rfl
@[simp] theorem writeAlu_mem (rd : Reg) (out : AluOut) : (s.writeAlu rd out).mem = s.mem := rfl
@[simp] theorem writeAlu_cost (rd : Reg) (out : AluOut) : (s.writeAlu rd out).cost = s.cost := rfl
@[simp] theorem writeAlu_readByte (rd : Reg) (out : AluOut) (x : Word) : (s.writeAlu rd out).readByte x = s.readByte x := rfl

/-! ### writeWide -/

@[simp] theorem writeWide_pc (rd : Reg) (out : WideOut) : (s.writeWide rd out).pc = s.pc := rfl
@[simp] theorem writeWide_waitCycles (rd : Reg) (out : WideOut) : (s.writeWide rd out).waitCycles = s.waitCycles := rfl
@[simp] theorem writeWide_intMsg (rd : Reg) (out : WideOut) : (s.writeWide rd out).intMsg = s.intMsg := rfl
@[simp] theorem writeWide_interrupt (rd : Reg) (out : WideOut) : (s.writeWide rd out).interrupt = s.interrupt := rfl
@[simp] theorem writeWide_stepMode (rd : Reg) (out : WideOut) : (s.writeWide rd out).stepMode = s.stepMode := rfl
@[simp] theorem writeWide_skipping (rd : Reg) (out : WideOut) : (s.writeWide rd out).skipping = s.skipping := rfl
@[simp] theorem writeWide_sleeping (rd : Reg) (out : WideOut) : (s.writeWide rd out).sleeping = s.sleeping := rfl
@[simp] theorem writeWide_mem (rd : Reg) (out : WideOut) : (s.writeWide rd out).mem = s.mem := rfl
@[simp] theorem writeWide_cost (rd : Reg) (out : WideOut) : (s.writeWide rd out).cost = s.cost := rfl
@[simp] theorem writeWide_readByte (rd : Reg) (out : WideOut) (x : Word) : (s.writeWide rd out).readByte x = s.readByte x := rfl

/-! ### pushByte -/

@[simp] theorem pushByte_pc (b : Byte) : (s.pushByte b).pc = s.pc := rfl
@[simp] theorem pushByte_waitCycles (b : Byte) : (s.pushByte b).waitCycles = s.waitCycles := rfl
@[simp] theorem pushByte_intMsg (b : Byte) : (s.pushByte b).intMsg = s.intMsg := rfl
@[simp] theorem pushByte_interrupt (b : Byte) : (s.pushByte b).interrupt = s.interrupt := rfl
@[simp] theorem pushByte_stepMode (b : Byte) : (s.pushByte b).stepMode = s.stepMode := rfl
@[simp] theorem pushByte_skipping (b : Byte) : (s.pushByte b).skipping = s.skipping := rfl
@[simp] theorem pushByte_sleeping (b : Byte) : (s.pushByte b).sleeping = s.sleeping := rfl
@[simp] theorem pushByte_cost (b : Byte) : (s.pushByte b).cost = s.cost := rfl

/-! ### push -/

@[simp] theorem push_pc (v : Word) : (s.push v).pc = s.pc := rfl
@[simp] theorem push_waitCycles (v : Word) : (s.push v).waitCycles = s.waitCycles := rfl
@[simp] theorem push_intMsg (v : Word) : (s.push v).intMsg = s.intMsg := rfl
@[simp] theorem push_interrupt (v : Word) : (s.push v).interrupt = s.interrupt := rfl
@[simp] theorem push_stepMode (v : Word) : (s.push v).stepMode = s.stepMode := rfl
@[simp] theorem push_skipping (v : Word) : (s.push v).skipping = s.skipping := rfl
@[simp] theorem push_sleeping (v : Word) : (s.push v).sleeping = s.sleeping := rfl
@[simp] theorem push_cost (v : Word) : (s.push v).cost = s.cost := rfl

/-! ### skipUnless -/

@[simp] theorem skipUnless_true : s.skipUnless true = s := rfl
@[simp] theorem skipUnless_false : s.skipUnless false = (s.addCost 1).setSkipping true := rfl

/-! ### The state after reset -/

@[simp] theorem reset_reg (r : Reg) : State.reset.reg r = 0#32 := by
  simp [State.reg, State.reset, Vector.get_eq_getElem]

@[simp] theorem reset_flag (f : Flag) : State.reset.flag f = false := by simp [State.flag]

/-- Two states are equal if every field is, the registers one by one. -/
theorem state_ext {s t : State} (hr : ∀ r, s.reg r = t.reg r) (hpc : s.pc = t.pc)
    (hw : s.waitCycles = t.waitCycles) (hm : s.intMsg = t.intMsg) (hi : s.interrupt = t.interrupt)
    (hst : s.stepMode = t.stepMode) (hsk : s.skipping = t.skipping) (hsl : s.sleeping = t.sleeping)
    (hmem : s.mem = t.mem) (hc : s.cost = t.cost) : s = t := by
  have hregs : s.regs = t.regs := by
    apply Vector.ext
    intro i hi'
    exact hr ⟨i, hi'⟩
  cases s; cases t; simp_all

end Sys2Proof.Machine
end

