-- ==== Sys2Proof/Laws/Memory.lean ====
section
/-! SUPPORT. Memory: what a read after a write gives, what it leaves alone, and that every operation keeps the
canonical form. -/

namespace Sys2Proof.Machine

/-! ### The list of cells -/

theorem Memory.read_erase (m : Memory) (a x : Nat) :
    (m.erase a).read x = if x = a then Config.unlistedByte else m.read x := by
  induction m with
  | nil => simp [Memory.erase, Memory.read]
  | cons c m ih =>
    obtain ⟨k, v⟩ := c
    simp only [Memory.erase] at ih
    by_cases h : k = a
    · subst h
      simp only [Memory.erase, List.filter_cons, ne_eq, not_true_eq_false, decide_false, Bool.false_eq_true, if_false,
        ih, Memory.read]
      split <;> simp_all [eq_comm]
    · simp only [Memory.erase, List.filter_cons, ne_eq, h, not_false_eq_true, decide_true, if_true, Memory.read, ih]
      split <;> simp_all

theorem Memory.read_insert (m : Memory) (a : Nat) (b : Byte) (x : Nat) :
    (m.insert a b).read x = if x = a then b else m.read x := by
  induction m with
  | nil => simp [Memory.insert, Memory.read, eq_comm]
  | cons c m ih =>
    obtain ⟨k, v⟩ := c
    simp only [Memory.insert]
    split
    · simp [Memory.read, eq_comm]
    · split
      · simp only [Memory.read]; split <;> simp_all [eq_comm]
      · simp only [Memory.read, ih]; split <;> simp_all [eq_comm]

/-- A read after a write: the byte written at its address, and every other byte as before (20_memory.md R74). -/
theorem Memory.read_write (m : Memory) (a : Nat) (b : Byte) (x : Nat) :
    (m.write a b).read x = if x = a then b else m.read x := by
  unfold Memory.write
  split
  · rename_i h; rw [Memory.read_erase, h]
  · exact Memory.read_insert m a b x

theorem Memory.mem_insert {m : Memory} {a : Nat} {b : Byte} {c : Host.Cell} (h : c ∈ m.insert a b) :
    c = (a, b) ∨ c ∈ m := by
  induction m with
  | nil => simpa [Memory.insert] using h
  | cons d m ih =>
    obtain ⟨k, v⟩ := d
    simp only [Memory.insert] at h
    split at h
    · simpa using h
    · split at h
      · rcases List.mem_cons.1 h with h | h
        · exact .inl h
        · exact .inr (List.mem_cons_of_mem _ h)
      · rcases List.mem_cons.1 h with h | h
        · exact .inr (by simp [h])
        · exact (ih h).imp id (List.mem_cons_of_mem _)

theorem Memory.erase_wf {m : Memory} (h : m.wf) (a : Nat) : (m.erase a).wf :=
  ⟨h.1.filter _, fun c hc => h.2 c (List.mem_filter.1 hc).1⟩

theorem Memory.insert_wf {m : Memory} (h : m.wf) {a : Nat} (ha : a < 2 ^ 32) {b : Byte}
    (hb : b ≠ Config.unlistedByte) : (m.insert a b).wf := by
  refine ⟨?_, fun c hc => ?_⟩
  · have hp := h.1
    clear h
    induction m with
    | nil => simp [Memory.insert]
    | cons d m ih =>
      obtain ⟨k, v⟩ := d
      have ⟨hk, hm⟩ := List.pairwise_cons.1 hp
      simp only [Memory.insert]
      split
      · refine List.pairwise_cons.2 ⟨fun c hc => ?_, hp⟩
        rcases List.mem_cons.1 hc with rfl | hc
        · assumption
        · have := hk c hc; simp at this ⊢; omega
      · split
        · subst a; exact List.pairwise_cons.2 ⟨hk, hm⟩
        · refine List.pairwise_cons.2 ⟨fun c hc => ?_, ih hm⟩
          rcases Memory.mem_insert hc with rfl | hc
          · simp; omega
          · exact hk c hc
  · rcases Memory.mem_insert hc with rfl | hc
    · exact ⟨ha, hb⟩
    · exact h.2 c hc

/-- A write keeps the canonical form. -/
theorem Memory.write_wf {m : Memory} (h : m.wf) {a : Nat} (ha : a < 2 ^ 32) (b : Byte) : (m.write a b).wf := by
  unfold Memory.write
  split
  · exact Memory.erase_wf h a
  · exact Memory.insert_wf h ha ‹_›

theorem Memory.read_of_not_listed {m : Memory} {a : Nat} (h : ∀ c ∈ m, c.1 ≠ a) : m.read a = Config.unlistedByte := by
  induction m with
  | nil => rfl
  | cons c m ih =>
    obtain ⟨k, v⟩ := c
    have := h (k, v) (by simp)
    simp only [Memory.read, if_neg this]
    exact ih fun c hc => h c (List.mem_cons_of_mem _ hc)

/-! ### Byte order -/

/-- A value is its four bytes (20_memory.md R72). -/
@[simp] theorem wordOfBytes_byte (v : Word) :
    wordOfBytes (Word.byte v 0) (Word.byte v 1) (Word.byte v 2) (Word.byte v 3) = v := by
  apply BitVec.eq_of_getLsbD_eq
  intro i hi
  simp only [wordOfBytes, Word.byte, BitVec.getLsbD_append, BitVec.getLsbD_extractLsb']
  by_cases h1 : i < 8
  · simp [h1]
  · by_cases h2 : i < 16
    · have : i - 8 < 8 := by omega
      simp [h1, this, show 8 + (i - 8) = i by omega]
    · by_cases h3 : i < 24
      · have : ¬ i - 8 < 8 := by omega
        have h' : i - 8 - 8 < 8 := by omega
        simp [h1, this, h', show 16 + (i - 8 - 8) = i by omega]
      · have h1' : ¬ i - 8 < 8 := by omega
        have h2' : ¬ i - 8 - 8 < 8 := by omega
        have h3' : i - 8 - 8 - 8 < 8 := by omega
        simp [h1, h1', h2', h3', show 24 + (i - 8 - 8 - 8) = i by omega]

/-- Byte `i` of a value made of bytes is byte `i`. -/
theorem byte_wordOfBytes (b0 b1 b2 b3 : Byte) :
    Word.byte (wordOfBytes b0 b1 b2 b3) 0 = b0 ∧ Word.byte (wordOfBytes b0 b1 b2 b3) 1 = b1 ∧
    Word.byte (wordOfBytes b0 b1 b2 b3) 2 = b2 ∧ Word.byte (wordOfBytes b0 b1 b2 b3) 3 = b3 := by
  refine ⟨?_, ?_, ?_, ?_⟩ <;>
  · apply BitVec.eq_of_getLsbD_eq
    intro i hi
    simp only [wordOfBytes, Word.byte, BitVec.getLsbD_append, BitVec.getLsbD_extractLsb']
    have a1 : ¬ 8 + i < 8 := by omega
    have a2 : ¬ 16 + i < 8 := by omega
    have a3 : ¬ 24 + i < 8 := by omega
    have b2 : ¬ 16 + i - 8 < 8 := by omega
    have b3 : ¬ 24 + i - 8 < 8 := by omega
    have c3 : ¬ 24 + i - 8 - 8 < 8 := by omega
    simp [hi, a1, a2, a3, b2, b3, c3, show 8 + i - 8 = i by omega, show 16 + i - 8 - 8 = i by omega,
      show 24 + i - 8 - 8 - 8 = i by omega]

/-! ### Bytes of the state's memory -/

variable (s : State)

/-- One byte write: its own byte, and every other byte as before. -/
@[simp] theorem writeByte_readByte (a : Word) (b : Byte) (x : Word) :
    (s.writeByte a b).readByte x = if x = a then b else s.readByte x := by
  simp only [State.readByte, writeByte_mem, Memory.read_write, BitVec.toNat_inj]

theorem writeByte_wf {s : State} (h : s.mem.wf) (a : Word) (b : Byte) : (s.writeByte a b).mem.wf :=
  Memory.write_wf h a.isLt b

@[simp] theorem writeBytes_nil (a : Word) : s.writeBytes a [] = s := rfl
@[simp] theorem writeBytes_cons (a : Word) (b : Byte) (bs : List Byte) :
    s.writeBytes a (b :: bs) = (s.writeByte a b).writeBytes (a + 1#32) bs := rfl

/-- Byte writes change memory alone. -/
theorem writeBytes_frame (bs : List Byte) : ∀ (s : State) (a : Word), s.writeBytes a bs =
    { s with mem := (s.writeBytes a bs).mem } := by
  induction bs with
  | nil => intro s a; rfl
  | cons b bs ih => intro s a; rw [writeBytes_cons, ih]; rfl

theorem writeBytes_wf (bs : List Byte) : ∀ {s : State}, s.mem.wf → ∀ a, (s.writeBytes a bs).mem.wf := by
  induction bs with
  | nil => intro s h a; exact h
  | cons b bs ih => intro s h a; exact ih (writeByte_wf h a b) _

/-- A byte outside the bytes written reads as before. -/
theorem writeBytes_readByte_outside (bs : List Byte) : ∀ (s : State) (a x : Word),
    (∀ k < bs.length, x ≠ a + BitVec.ofNat 32 k) → (s.writeBytes a bs).readByte x = s.readByte x := by
  induction bs with
  | nil => intro s a x _; rfl
  | cons b bs ih =>
    intro s a x h
    rw [writeBytes_cons, ih, writeByte_readByte, if_neg]
    · simpa using h 0 (by simp)
    · intro k hk
      have := h (k + 1) (by simpa using hk)
      rwa [show a + 1#32 + BitVec.ofNat 32 k = a + BitVec.ofNat 32 (k + 1) by
        rw [BitVec.add_assoc]; congr 1; apply BitVec.eq_of_toNat_eq; simp [Nat.add_comm]]

@[simp] theorem writeBytes_reg (a : Word) (bs : List Byte) (r : Reg) : (s.writeBytes a bs).reg r = s.reg r := by
  rw [writeBytes_frame]; rfl
@[simp] theorem writeBytes_flag (a : Word) (bs : List Byte) (f : Flag) : (s.writeBytes a bs).flag f = s.flag f := by
  rw [writeBytes_frame]; rfl
@[simp] theorem writeBytes_regs (a : Word) (bs : List Byte) : (s.writeBytes a bs).regs = s.regs := by
  rw [writeBytes_frame]
@[simp] theorem writeBytes_pc (a : Word) (bs : List Byte) : (s.writeBytes a bs).pc = s.pc := by
  rw [writeBytes_frame]
@[simp] theorem writeBytes_waitCycles (a : Word) (bs : List Byte) :
    (s.writeBytes a bs).waitCycles = s.waitCycles := by rw [writeBytes_frame]
@[simp] theorem writeBytes_intMsg (a : Word) (bs : List Byte) : (s.writeBytes a bs).intMsg = s.intMsg := by
  rw [writeBytes_frame]
@[simp] theorem writeBytes_interrupt (a : Word) (bs : List Byte) :
    (s.writeBytes a bs).interrupt = s.interrupt := by rw [writeBytes_frame]
@[simp] theorem writeBytes_stepMode (a : Word) (bs : List Byte) :
    (s.writeBytes a bs).stepMode = s.stepMode := by rw [writeBytes_frame]
@[simp] theorem writeBytes_skipping (a : Word) (bs : List Byte) :
    (s.writeBytes a bs).skipping = s.skipping := by rw [writeBytes_frame]
@[simp] theorem writeBytes_sleeping (a : Word) (bs : List Byte) :
    (s.writeBytes a bs).sleeping = s.sleeping := by rw [writeBytes_frame]
@[simp] theorem writeBytes_cost (a : Word) (bs : List Byte) : (s.writeBytes a bs).cost = s.cost := by
  rw [writeBytes_frame]

/-- After a D-word write, its four bytes from the address on, little-endian (20_memory.md R72). -/
theorem writeWord_readByte (a v x : Word) : (s.writeWord a v).readByte x =
    if x = a + 3#32 then Word.byte v 3 else if x = a + 2#32 then Word.byte v 2
    else if x = a + 1#32 then Word.byte v 1 else if x = a then Word.byte v 0 else s.readByte x := by
  simp only [State.writeWord, bytesOfWord, writeBytes_cons, writeBytes_nil, writeByte_readByte]
  simp only [BitVec.add_assoc, BitVec.reduceAdd]

theorem writeHalf_readByte (a : Word) (v : Half) (x : Word) : (s.writeHalf a v).readByte x =
    if x = a + 1#32 then v.extractLsb' 8 8 else if x = a then v.extractLsb' 0 8 else s.readByte x := by
  simp only [State.writeHalf, writeBytes_cons, writeBytes_nil, writeByte_readByte]

/-- A D-word read after a D-word write at the same address, aligned or not, wrapping or not (20_memory.md R91). -/
@[simp] theorem writeWord_readWord (a v : Word) : (s.writeWord a v).readWord a = v := by
  have n10 : a ≠ a + 1#32 := by simp
  have n20 : a ≠ a + 2#32 := by simp
  have n30 : a ≠ a + 3#32 := by simp
  have n12 : a + 1#32 ≠ a + 2#32 := by simp
  have n13 : a + 1#32 ≠ a + 3#32 := by simp
  have n23 : a + 2#32 ≠ a + 3#32 := by simp
  simp only [State.readWord, writeWord_readByte, n10, n20, n30, n12, n13, n23, if_false, if_true, wordOfBytes_byte]

/-- A half-word read after a half-word write at the same address (20_memory.md R91). -/
@[simp] theorem writeHalf_readHalf (a : Word) (v : Half) : (s.writeHalf a v).readHalf a = v := by
  have n10 : a ≠ a + 1#32 := by simp
  simp only [State.readHalf, writeHalf_readByte, n10, if_false, if_true]
  apply BitVec.eq_of_getLsbD_eq
  intro i hi
  simp only [BitVec.getLsbD_append, BitVec.getLsbD_extractLsb']
  by_cases h : i < 8
  · simp [h]
  · have : i - 8 < 8 := by omega
    simp [h, this, show 8 + (i - 8) = i by omega]

/-- The bytes read one by one are the bytes of the D-word read. -/
theorem bytesOfWord_readWord (a : Word) : bytesOfWord (s.readWord a) = s.readBytes a 4 := by
  have ⟨h0, h1, h2, h3⟩ := byte_wordOfBytes (s.readByte a) (s.readByte (a + 1#32)) (s.readByte (a + 2#32))
    (s.readByte (a + 3#32))
  simp only [bytesOfWord, State.readWord, h0, h1, h2, h3, State.readBytes, BitVec.add_assoc, BitVec.reduceAdd]

end Sys2Proof.Machine
end

