-- ==== Sys2Proof/Laws/Ops.lean ====
section
/-! SUPPORT. One lemma per shared operation that says everything it can do: the stack, interrupts, and the shapes the
meanings share. Cite these; do not unfold the operations. -/

namespace Sys2Proof.Machine

variable (s : State)

/-! ### The stack -/

@[simp] theorem pushByte_reg (b : Byte) (q : Reg) :
    (s.pushByte b).reg q = if q = Reg.sp then s.reg Reg.sp - 1#32 else s.reg q := by
  simp [State.pushByte]

@[simp] theorem pushByte_readByte (b : Byte) (x : Word) :
    (s.pushByte b).readByte x = if x = s.reg Reg.sp - 1#32 then b else s.readByte x := by
  simp [State.pushByte]

theorem pushByte_wf {s : State} (h : s.mem.wf) (b : Byte) : (s.pushByte b).mem.wf :=
  writeByte_wf (s := s.setReg _ _) h _ b

/-- A push moves SP down by 4 and touches no other register (20_memory.md R84). -/
@[simp] theorem push_reg (v : Word) (q : Reg) :
    (s.push v).reg q = if q = Reg.sp then s.reg Reg.sp - 4#32 else s.reg q := by
  simp only [State.push, pushByte_reg, if_true]
  split
  · bv_omega
  · rfl

/-- A push writes the four bytes from the new SP up, little-endian, and no other (20_memory.md R84). -/
theorem push_readByte (v x : Word) : (s.push v).readByte x =
    if x = s.reg Reg.sp - 4#32 then Word.byte v 0 else if x = s.reg Reg.sp - 3#32 then Word.byte v 1
    else if x = s.reg Reg.sp - 2#32 then Word.byte v 2 else if x = s.reg Reg.sp - 1#32 then Word.byte v 3
    else s.readByte x := by
  simp only [State.push, pushByte_readByte, pushByte_reg, if_true]
  simp only [show s.reg Reg.sp - 1#32 - 1#32 = s.reg Reg.sp - 2#32 by bv_omega,
    show s.reg Reg.sp - 2#32 - 1#32 = s.reg Reg.sp - 3#32 by bv_omega,
    show s.reg Reg.sp - 3#32 - 1#32 = s.reg Reg.sp - 4#32 by bv_omega]

theorem push_wf {s : State} (h : s.mem.wf) (v : Word) : (s.push v).mem.wf :=
  pushByte_wf (pushByte_wf (pushByte_wf (pushByte_wf h _) _) _) _

/-- The word pushed is the word at the new SP. -/
@[simp] theorem push_readWord (v : Word) : (s.push v).readWord (s.reg Reg.sp - 4#32) = v := by
  simp only [State.readWord, push_readByte,
    show s.reg Reg.sp - 4#32 + 1#32 = s.reg Reg.sp - 3#32 by bv_omega,
    show s.reg Reg.sp - 4#32 + 2#32 = s.reg Reg.sp - 2#32 by bv_omega,
    show s.reg Reg.sp - 4#32 + 3#32 = s.reg Reg.sp - 1#32 by bv_omega,
    show ¬ s.reg Reg.sp - 3#32 = s.reg Reg.sp - 4#32 by bv_omega,
    show ¬ s.reg Reg.sp - 2#32 = s.reg Reg.sp - 4#32 by bv_omega,
    show ¬ s.reg Reg.sp - 2#32 = s.reg Reg.sp - 3#32 by bv_omega,
    show ¬ s.reg Reg.sp - 1#32 = s.reg Reg.sp - 4#32 by bv_omega,
    show ¬ s.reg Reg.sp - 1#32 = s.reg Reg.sp - 3#32 by bv_omega,
    show ¬ s.reg Reg.sp - 1#32 = s.reg Reg.sp - 2#32 by bv_omega, if_true, if_false, wordOfBytes_byte]

/-- A push leaves the four bytes from the old SP up as they were. -/
@[simp] theorem push_readWord_above (v : Word) : (s.push v).readWord (s.reg Reg.sp) = s.readWord (s.reg Reg.sp) := by
  have h : ∀ k : Nat, k < 4 → (s.push v).readByte (s.reg Reg.sp + BitVec.ofNat 32 k) =
      s.readByte (s.reg Reg.sp + BitVec.ofNat 32 k) := by
    intro k hk
    rw [push_readByte, if_neg, if_neg, if_neg, if_neg] <;> bv_omega
  have h0 := h 0 (by decide)
  simp only [BitVec.add_zero] at h0
  simp only [State.readWord, h0, h 1 (by decide), h 2 (by decide), h 3 (by decide)]

@[simp] theorem pop_value : s.pop.1 = s.readWord (s.reg Reg.sp) := rfl
@[simp] theorem pop_state : s.pop.2 = s.setReg Reg.sp (s.reg Reg.sp + 4#32) := rfl

/-! ### A D-word read depends on memory alone -/

theorem readWord_congr {s t : State} (h : s.mem = t.mem) (a : Word) : s.readWord a = t.readWord a := by
  simp only [State.readWord, State.readByte, h]

@[simp] theorem setReg_readWord (r : Reg) (v a : Word) : (s.setReg r v).readWord a = s.readWord a := rfl
@[simp] theorem setFlag_readWord (f : Flag) (b : Bool) (a : Word) : (s.setFlag f b).readWord a = s.readWord a := rfl
@[simp] theorem setPc_readWord (v a : Word) : (s.setPc v).readWord a = s.readWord a := rfl
@[simp] theorem jump_readWord (v a : Word) : (s.jump v).readWord a = s.readWord a := rfl
@[simp] theorem setInterrupt_readWord (b : Bool) (a : Word) : (s.setInterrupt b).readWord a = s.readWord a := rfl
@[simp] theorem setSleeping_readWord (b : Bool) (a : Word) : (s.setSleeping b).readWord a = s.readWord a := rfl
@[simp] theorem addCost_readWord (k : Nat) (a : Word) : (s.addCost k).readWord a = s.readWord a := rfl
@[simp] theorem setCost_readWord (k : Nat) (a : Word) : (s.setCost k).readWord a = s.readWord a := rfl

/-! ### Alignment -/

@[simp] theorem alignTarget_aligned (v : Word) : alignTarget v &&& 3#32 = 0#32 := by
  rw [alignTarget, BitVec.and_assoc]; simp

theorem alignTarget_of_aligned {v : Word} (h : v &&& 3#32 = 0#32) : alignTarget v = v := by
  have e : v &&& 0xFFFFFFFC#32 ||| v &&& 3#32 = v := by
    apply BitVec.eq_of_getLsbD_eq
    intro i hi
    simp only [BitVec.getLsbD_or, BitVec.getLsbD_and, ← Bool.and_or_distrib_left]
    have : ((0xFFFFFFFC#32).getLsbD i || (3#32).getLsbD i) = true := by
      revert i; decide
    rw [this, Bool.and_true]
  rw [h, BitVec.or_zero] at e
  exact e

/-- Adding a multiple of 4 keeps the low two bits. -/
theorem aligned_add {v w : Word} (hv : v &&& 3#32 = 0#32) (hw : w &&& 3#32 = 0#32) : (v + w) &&& 3#32 = 0#32 := by
  have low : ∀ x : Word, x &&& 3#32 = 0#32 ↔ x.toNat % 4 = 0 := by
    intro x
    rw [← BitVec.toNat_inj, BitVec.toNat_and, show (3#32).toNat = 2 ^ 2 - 1 by decide, Nat.and_two_pow_sub_one_eq_mod]
    simp
  rw [low] at *
  rw [BitVec.toNat_add]
  omega

/-! ### Interrupts -/

/-- A request: refused while EI = 0, else it takes the pending slot (60_exceptions.md R322). -/
theorem sendInterrupt_cases (msg : Byte) :
    (s.flag .EI = false ∧ s.sendInterrupt msg = (false, s)) ∨
    (s.flag .EI = true ∧ s.sendInterrupt msg = (true, (s.setInterrupt true).setIntMsg msg)) := by
  unfold State.sendInterrupt
  cases h : s.flag .EI <;> simp

/-- The controller: nothing to take, or a null vector, or the entry into a handler (60_exceptions.md R325 to R327). -/
theorem interruptController_cases :
    ((s.interrupt = false ∨ s.flag .EI = false) ∧ s.interruptController = s) ∨
    (s.interrupt = true ∧ s.flag .EI = true ∧ s.readWord (s.vectorAddress s.intMsg) = 0#32 ∧
      s.interruptController = s.setInterrupt false) ∨
    (s.interrupt = true ∧ s.flag .EI = true ∧ s.readWord (s.vectorAddress s.intMsg) ≠ 0#32 ∧
      s.interruptController =
        ((((((s.push (s.reg 0)).push s.pc).setReg 0 (s.intMsg.setWidth 32)).setPc
          (s.readWord (s.vectorAddress s.intMsg))).setFlag .IF true).setInterrupt false).setSleeping false) := by
  unfold State.interruptController
  cases hi : s.interrupt <;> cases he : s.flag .EI <;> simp only [Bool.and_self, Bool.and_false, Bool.false_and,
    Bool.false_eq_true, if_false, if_true]
  · simp
  · simp
  · simp
  · refine .inr ?_
    unfold State.acceptInterrupt
    by_cases hv : s.readWord (s.vectorAddress s.intMsg) = 0#32
    · exact .inl ⟨trivial, trivial, hv, by simp [hv]⟩
    · exact .inr ⟨trivial, trivial, hv, by simp [hv]⟩

/-- The step-mode check: nothing, or the request for interrupt 0 (44_step_cycle.md R300). -/
theorem stepModeCheck_cases :
    ((s.stepMode = false ∨ s.flag .IF = true ∨ s.flag .EI = false) ∧ s.stepModeCheck = s) ∨
    (s.stepMode = true ∧ s.flag .IF = false ∧ s.flag .EI = true ∧
      s.stepModeCheck = (s.setInterrupt true).setIntMsg 0#8) := by
  unfold State.stepModeCheck State.sendInterrupt
  cases s.stepMode <;> cases s.flag .IF <;> cases s.flag .EI <;> simp

theorem interruptController_wf {s : State} (h : s.mem.wf) : s.interruptController.mem.wf := by
  rcases interruptController_cases s with ⟨_, e⟩ | ⟨_, _, _, e⟩ | ⟨_, _, _, e⟩ <;> rw [e]
  · exact h
  · exact h
  · simp only [setSleeping_mem, setInterrupt_mem, setFlag_mem, setPc_mem, setReg_mem]
    exact push_wf (push_wf h _) _

/-- What the controller never touches (60_exceptions.md R329). -/
theorem interruptController_unchanged : s.interruptController.intMsg = s.intMsg ∧
    s.interruptController.stepMode = s.stepMode ∧ s.interruptController.skipping = s.skipping ∧
    s.interruptController.waitCycles = s.waitCycles ∧ s.interruptController.cost = s.cost := by
  rcases interruptController_cases s with ⟨_, e⟩ | ⟨_, _, _, e⟩ | ⟨_, _, _, e⟩ <;> rw [e] <;> simp

/-- The controller only wakes: it never puts the core to sleep. -/
theorem interruptController_sleeping (h : s.interruptController.sleeping = true) : s.sleeping = true := by
  rcases interruptController_cases s with ⟨_, e⟩ | ⟨_, _, _, e⟩ | ⟨_, _, _, e⟩ <;> rw [e] at h
  · exact h
  · exact h
  · simp at h

/-- `pc` after the controller: as it was, or the vector loaded by an acceptance. -/
theorem interruptController_pc : s.interruptController.pc = s.pc ∨
    (s.interrupt = true ∧ s.flag .EI = true ∧
      s.interruptController.pc = s.readWord (s.vectorAddress s.intMsg)) := by
  rcases interruptController_cases s with ⟨_, e⟩ | ⟨_, _, _, e⟩ | ⟨hi, he, _, e⟩ <;> rw [e]
  · exact .inl rfl
  · exact .inl rfl
  · exact .inr ⟨hi, he, rfl⟩

theorem stepModeCheck_unchanged : s.stepModeCheck.regs = s.regs ∧ s.stepModeCheck.pc = s.pc ∧
    s.stepModeCheck.waitCycles = s.waitCycles ∧ s.stepModeCheck.stepMode = s.stepMode ∧
    s.stepModeCheck.skipping = s.skipping ∧ s.stepModeCheck.sleeping = s.sleeping ∧
    s.stepModeCheck.mem = s.mem ∧ s.stepModeCheck.cost = s.cost := by
  rcases stepModeCheck_cases s with ⟨_, e⟩ | ⟨_, _, _, e⟩ <;> rw [e] <;> simp

/-! ### The shapes the meanings share -/

/-- The ALU write order (40_p3_three_operand.md R131), register by register. -/
theorem writeAlu_reg (rd : Reg) (out : AluOut) (q : Reg) : (s.writeAlu rd out).reg q =
    if q = rd then out.res
    else if q = Reg.flags then setBit (setBit (s.reg Reg.flags) 0 out.cf) 1 out.of
    else s.reg q := by
  simp only [State.writeAlu, setReg_reg, setFlag_reg, Flag.bit, if_true]
  split
  · rfl
  · split <;> rfl

/-- The multiply and divide write order (40_p3_three_operand.md R131, R155), register by register. -/
theorem writeWide_reg (rd : Reg) (out : WideOut) (q : Reg) : (s.writeWide rd out).reg q =
    if q = Reg.y then out.y else if q = rd then out.rd else s.reg q := by
  simp only [State.writeWide, setReg_reg]

@[simp] theorem clearCarryOverflow_reg (q : Reg) : s.clearCarryOverflow.reg q =
    if q = Reg.flags then setBit (setBit (s.reg Reg.flags) 0 false) 1 false else s.reg q := by
  simp only [State.clearCarryOverflow, setFlag_reg, Flag.bit, if_true]
  split <;> rfl

@[simp] theorem clearCarryOverflow_pc : s.clearCarryOverflow.pc = s.pc := rfl
@[simp] theorem clearCarryOverflow_mem : s.clearCarryOverflow.mem = s.mem := rfl
@[simp] theorem clearCarryOverflow_cost : s.clearCarryOverflow.cost = s.cost := rfl

/-- A register-only P1 or SWP form: on a register it is `f`, with a literal it is the base cost (R238, R201). -/
theorem onRegister_cases (rn : Operand) (f : Reg → State → State) :
    (∃ r, rn = .reg r ∧ s.onRegister rn f = f r (s.addCost wideBaseCost)) ∨
    ((∀ r, rn ≠ .reg r) ∧ s.onRegister rn f = s.addCost wideBaseCost) := by
  cases rn
  · exact .inl ⟨_, rfl, rfl⟩
  · exact .inr ⟨by simp, rfl⟩
  · exact .inr ⟨by simp, rfl⟩

/-- A conditional skip (41_p2_two_operand.md R220). -/
theorem skipUnless_cases (p : Bool) :
    (p = true ∧ s.skipUnless p = s) ∨ (p = false ∧ s.skipUnless p = (s.addCost 1).setSkipping true) := by
  cases p <;> simp

end Sys2Proof.Machine
end

