-- ==== Sys2Proof/Laws/Cycle.lean ====
section
/-! SUPPORT. What a step can do, said once (44_step_cycle.md R303), and what a port event can do. -/

namespace Sys2Proof.Machine

/-! ### Fetch always gives the decoder a whole instruction -/

theorem decode_bytes (w c : Word) (rest : List Byte) :
    decode (bytesOfWord w ++ (if hasContinuation w then bytesOfWord c ++ rest else rest)) =
      .ok (decodeWords w (if hasContinuation w then c else 0#32), rest) := by
  cases h : hasContinuation w <;> simp [bytesOfWord, decode, h]

theorem readBytes_eight (s : State) (a : Word) : s.readBytes a 8 = s.readBytes a 4 ++ s.readBytes (a + 4#32) 4 := by
  simp only [State.readBytes, List.cons_append, List.nil_append, BitVec.add_assoc, BitVec.reduceAdd]

/-- The decoder reads, from the bytes fetched, the instruction of the word at `pc` and of the word after it. -/
theorem decode_fetchBytes (s : State) : decode s.fetchBytes =
    .ok (decodeWords (s.readWord s.pc) (if hasContinuation (s.readWord s.pc) then s.readWord (s.pc + 4#32) else 0#32),
      []) := by
  have h := decode_bytes (s.readWord s.pc) (s.readWord (s.pc + 4#32)) []
  rw [← h]
  unfold State.fetchBytes
  cases hasContinuation (s.readWord s.pc) <;>
    simp only [Bool.false_eq_true, if_false, if_true, readBytes_eight, bytesOfWord_readWord, List.append_nil]

/-! ### The step -/

/-- Everything a step can do: a sleep step, a skip step, or fetch, decode, execute and the end of the step. -/
theorem step_cases {s t : State} (h : step s = .next t) :
    (s.sleeping = true ∧ t = s.sleepStep) ∨
    (s.sleeping = false ∧ s.skipping = true ∧ t = s.skipStep) ∨
    (s.sleeping = false ∧ s.skipping = false ∧ ∃ i rest u, decode s.fetchBytes = .ok (i, rest) ∧
      exec i s.afterDecode = .next u ∧ t = u.endOfStep) := by
  unfold step State.cycle at h
  split at h
  · exact .inl ⟨‹_›, by simpa using h.symm⟩
  · rename_i hs
    split at h
    · exact .inr (.inl ⟨by simpa using hs, ‹_›, by simpa using h.symm⟩)
    · rename_i hk
      refine .inr (.inr ⟨by simpa using hs, by simpa using hk, ?_⟩)
      unfold State.normalStep at h
      split at h
      · cases h
      · rename_i i rest hd
        split at h
        · rename_i u he
          exact ⟨i, rest, u, hd, he, by simpa using h.symm⟩
        · cases h
        · cases h

/-- A normal step, forward: what `exec` answers, and then the end of the step. -/
theorem step_normal {s u : State} {i : Instr} {rest : List Byte} (hs : s.sleeping = false) (hk : s.skipping = false)
    (hd : decode s.fetchBytes = .ok (i, rest)) (he : exec i s.afterDecode = .next u) :
    step s = .next u.endOfStep := by
  simp [step, State.cycle, State.normalStep, hs, hk, hd, he]

theorem step_asleep {s : State} (hs : s.sleeping = true) : step s = .next s.sleepStep := by
  simp [step, State.cycle, hs]

theorem step_skipping {s : State} (hs : s.sleeping = false) (hk : s.skipping = true) :
    step s = .next s.skipStep := by
  simp [step, State.cycle, hs, hk]

/-! ### What decode leaves -/

@[simp] theorem afterDecode_pc (s : State) :
    s.afterDecode.pc = s.pc + (if hasContinuation (s.readWord s.pc) then 8#32 else 4#32) := rfl
@[simp] theorem afterDecode_cost (s : State) :
    s.afterDecode.cost = if hasContinuation (s.readWord s.pc) then 1 else 0 := rfl
@[simp] theorem afterDecode_regs (s : State) : s.afterDecode.regs = s.regs := rfl
@[simp] theorem afterDecode_reg (s : State) (r : Reg) : s.afterDecode.reg r = s.reg r := rfl
@[simp] theorem afterDecode_flag (s : State) (f : Flag) : s.afterDecode.flag f = s.flag f := rfl
@[simp] theorem afterDecode_waitCycles (s : State) : s.afterDecode.waitCycles = s.waitCycles := rfl
@[simp] theorem afterDecode_intMsg (s : State) : s.afterDecode.intMsg = s.intMsg := rfl
@[simp] theorem afterDecode_interrupt (s : State) : s.afterDecode.interrupt = s.interrupt := rfl
@[simp] theorem afterDecode_stepMode (s : State) : s.afterDecode.stepMode = s.stepMode := rfl
@[simp] theorem afterDecode_skipping (s : State) : s.afterDecode.skipping = s.skipping := rfl
@[simp] theorem afterDecode_sleeping (s : State) : s.afterDecode.sleeping = s.sleeping := rfl
@[simp] theorem afterDecode_mem (s : State) : s.afterDecode.mem = s.mem := rfl

/-! ### The tick -/

/-- One cycle of `tick` (44_step_cycle.md R310). -/
theorem tickOnce_cases {s t : State} (h : tickOnce s = .next t) :
    (s.waitCycles = 0 ∧ ∃ u, step s = .next u ∧ t = u.setWaitCycles (u.cost - 1)) ∨
    (s.waitCycles ≠ 0 ∧ t = s.setWaitCycles (s.waitCycles - 1)) := by
  unfold tickOnce at h
  split at h
  · rename_i hw
    split at h
    · rename_i u hu; exact .inl ⟨hw, u, hu, by simpa using h.symm⟩
    · cases h
    · cases h
  · rename_i hw; exact .inr ⟨hw, by simpa using h.symm⟩

end Sys2Proof.Machine
end

