-- ==== Sys2Proof/Laws/Encoding.lean ====
section
/-! SUPPORT. The fields of an encoded word are the ones it was made of (30_encoding.md R102 to R110), for each family
once. -/

namespace Sys2Proof

/-! ### Fields of a concatenation -/

theorem extract_append_high {a b : Nat} (x : BitVec a) (y : BitVec b) (k n : Nat) (h : b ≤ k) :
    (x ++ y).extractLsb' k n = x.extractLsb' (k - b) n := by
  apply BitVec.eq_of_getLsbD_eq
  intro i hi
  simp only [BitVec.getLsbD_extractLsb', BitVec.getLsbD_append, if_neg (by omega : ¬ k + i < b)]
  rw [Nat.sub_add_comm h]

theorem extract_append_low {a b : Nat} (x : BitVec a) (y : BitVec b) (k n : Nat) (h : k + n ≤ b) :
    (x ++ y).extractLsb' k n = y.extractLsb' k n := by
  apply BitVec.eq_of_getLsbD_eq
  intro i hi
  simp only [BitVec.getLsbD_extractLsb', BitVec.getLsbD_append, if_pos (by omega : k + i < b)]

theorem bit_append_high {a b : Nat} (x : BitVec a) (y : BitVec b) (k : Nat) (h : b ≤ k) :
    (x ++ y).getLsbD k = x.getLsbD (k - b) := by
  simp only [BitVec.getLsbD_append, if_neg (by omega : ¬ k < b)]

theorem bit_append_low {a b : Nat} (x : BitVec a) (y : BitVec b) (k : Nat) (h : k < b) :
    (x ++ y).getLsbD k = y.getLsbD k := by
  simp only [BitVec.getLsbD_append, if_pos h]

theorem extract_self {n : Nat} (x : BitVec n) : x.extractLsb' 0 n = x := by
  apply BitVec.eq_of_getLsbD_eq
  intro i hi
  simp [hi]

/-! ### Registers and operands -/

@[simp] theorem regBits_toFin (r : Reg) : (regBits r).toFin = r := by
  apply Fin.ext; simp [regBits]

/-- The low four bits of a register operand's field are the register's number (R105 to R107). -/
theorem regField_toFin {n : Nat} (hn : 4 ≤ n) (r : Reg) : ((BitVec.ofNat n r.val).setWidth 4).toFin = r := by
  apply Fin.ext
  have h16 : (16 : Nat) ≤ 2 ^ n := by
    calc (16 : Nat) = 2 ^ 4 := rfl
      _ ≤ 2 ^ n := Nat.pow_le_pow_right (by decide) hn
  have := r.isLt
  simp [Nat.mod_eq_of_lt (by omega : r.val < 2 ^ n)]

/-- A field of an operand decodes to that operand (R110 to R112). -/
theorem decodeOperand_field {n : Nat} (hn : 4 ≤ n) (sentinel : BitVec n) (rn : Operand) (h : rn.fits sentinel = true)
    (c : Word) (hc : ∀ v, rn = .long v → c = v) :
    decodeOperand sentinel rn.literal (rn.field sentinel) c = rn := by
  cases rn with
  | reg r => simp only [decodeOperand, Operand.literal, Operand.field, Bool.false_eq_true, if_false, regField_toFin hn]
  | lit v =>
    simp only [Operand.fits, Bool.and_eq_true, decide_eq_true_eq] at h
    simp [decodeOperand, Operand.literal, Operand.field, h.1, h.2]
  | long v => simp [decodeOperand, Operand.literal, Operand.field, hc v rfl]

/-- A field is the escape with L set exactly where a continuation word follows (R115). -/
theorem literal_and_sentinel {n : Nat} (sentinel : BitVec n) (rn : Operand) (h : rn.fits sentinel = true) :
    (rn.literal && decide (rn.field sentinel = sentinel)) = decide (rn.continuation ≠ []) := by
  cases rn with
  | reg r => rfl
  | lit v =>
    simp only [Operand.fits, Bool.and_eq_true, decide_eq_true_eq] at h
    simp [Operand.literal, Operand.field, Operand.continuation, h.2]
  | long v => simp [Operand.literal, Operand.field, Operand.continuation]

/-! ### Encoded words -/

variable (op : BitVec 6) (op2 : BitVec 7) (op1 : BitVec 5) (op0 : BitVec 28) (rd rs : Reg) (rn : Operand)

@[simp] theorem p3Word_family : family (p3Word op rd rs rn) = .p3 := by
  simp (disch := decide) only [family, p3Word, bit_append_high, bit_append_low, Nat.reduceSub]
  simp

@[simp] theorem p3Word_literal : literalFlag (p3Word op rd rs rn) = rn.literal := by
  simp (disch := decide) only [literalFlag, p3Word, bit_append_high, bit_append_low, Nat.reduceSub]
  simp

@[simp] theorem p3Word_field : p3Field (p3Word op rd rs rn) = rn.field p3Sentinel := by
  simp (disch := decide) only [p3Field, p3Word, extract_append_high, extract_append_low, Nat.reduceSub, extract_self]

@[simp] theorem p3Word_op : (p3Word op rd rs rn).extractLsb' 24 6 = op := by
  simp (disch := decide) only [p3Word, extract_append_high, extract_append_low, Nat.reduceSub, extract_self]

@[simp] theorem p3Word_rd : rdField (p3Word op rd rs rn) = rd := by
  simp (disch := decide) only [rdField, p3Word, extract_append_low, extract_self, regBits_toFin]

@[simp] theorem p3Word_rs : rsField (p3Word op rd rs rn) = rs := by
  simp (disch := decide) only [rsField, p3Word, extract_append_high, extract_append_low, Nat.reduceSub, extract_self, regBits_toFin]

@[simp] theorem p2Word_family : family (p2Word op2 rd rn) = .p2 := by
  simp (disch := decide) only [family, p2Word, bit_append_high, bit_append_low, Nat.reduceSub]
  simp

@[simp] theorem p2Word_literal : literalFlag (p2Word op2 rd rn) = rn.literal := by
  simp (disch := decide) only [literalFlag, p2Word, bit_append_high, bit_append_low, Nat.reduceSub]
  simp

@[simp] theorem p2Word_field : p2Field (p2Word op2 rd rn) = rn.field p2Sentinel := by
  simp (disch := decide) only [p2Field, p2Word, extract_append_high, extract_append_low, Nat.reduceSub, extract_self]

@[simp] theorem p2Word_op : (p2Word op2 rd rn).extractLsb' 24 7 = op2 := by
  simp (disch := decide) only [p2Word, extract_append_high, extract_append_low, Nat.reduceSub, extract_self]

@[simp] theorem p2Word_rd : rdField (p2Word op2 rd rn) = rd := by
  simp (disch := decide) only [rdField, p2Word, extract_append_low, extract_self, regBits_toFin]

@[simp] theorem p1Word_family : family (p1Word op1 rn) = .p1 := by
  simp (disch := decide) only [family, p1Word, bit_append_high, Nat.reduceSub]
  simp

@[simp] theorem p1Word_literal : literalFlag (p1Word op1 rn) = rn.literal := by
  simp (disch := decide) only [literalFlag, p1Word, bit_append_high, bit_append_low, Nat.reduceSub]
  simp

@[simp] theorem p1Word_field : p1Field (p1Word op1 rn) = rn.field p1Sentinel := by
  simp (disch := decide) only [p1Field, p1Word, extract_append_low, extract_self]

@[simp] theorem p1Word_op : (p1Word op1 rn).extractLsb' 24 5 = op1 := by
  simp (disch := decide) only [p1Word, extract_append_high, extract_append_low, Nat.reduceSub, extract_self]

@[simp] theorem npWord_family : family (npWord op0) = .np := by
  simp (disch := decide) only [family, npWord, bit_append_high, Nat.reduceSub]
  simp

@[simp] theorem npWord_op : (npWord op0).extractLsb' 0 28 = op0 := by
  simp (disch := decide) only [npWord, extract_append_low, extract_self]

/-! ### The length test on encoded words (R115) -/

theorem p3Word_hasContinuation (h : rn.fits p3Sentinel = true) :
    hasContinuation (p3Word op rd rs rn) = decide (rn.continuation ≠ []) := by
  simp only [hasContinuation, p3Word_family, p3Word_literal, p3Word_field]
  exact literal_and_sentinel _ _ h

theorem p2Word_hasContinuation (h : rn.fits p2Sentinel = true) :
    hasContinuation (p2Word op2 rd rn) = decide (rn.continuation ≠ []) := by
  simp only [hasContinuation, p2Word_family, p2Word_literal, p2Word_field]
  exact literal_and_sentinel _ _ h

theorem p1Word_hasContinuation (h : rn.fits p1Sentinel = true) :
    hasContinuation (p1Word op1 rn) = decide (rn.continuation ≠ []) := by
  simp only [hasContinuation, p1Word_family, p1Word_literal, p1Word_field]
  exact literal_and_sentinel _ _ h

@[simp] theorem npWord_hasContinuation : hasContinuation (npWord op0) = false := by
  simp [hasContinuation]

/-! ### The opcode tables, read once -/

/-- An opcode that the P3 table does not name (R117). -/
theorem decodeP3_unknown {op : BitVec 6} (h : unknownP3Op op = true) (rd rs : Reg) (rn : Operand) :
    decodeP3 op rd rs rn = .unknownP3 op rd rs rn := by
  simp only [unknownP3Op, decide_eq_true_eq] at h
  unfold decodeP3
  split <;> first | rfl | omega

/-- What the P3 table gives is well-formed as far as its operand is. -/
theorem decodeP3_wf (op : BitVec 6) (rd rs : Reg) (rn : Operand) :
    (decodeP3 op rd rs rn).wf = rn.fits p3Sentinel := by
  cases h : unknownP3Op op
  · simp only [unknownP3Op, decide_eq_false_iff_not] at h
    unfold decodeP3
    generalize op.toNat = n at h
    have : n < 0x19 := by omega
    clear h
    interval_cases n <;> rfl
  · simp [decodeP3_unknown h, Instr.wf, h]

/-- An opcode that the P2 table does not name (R118). -/
theorem decodeP2_unknown {op : BitVec 7} (h : unknownP2Op op = true) (rd : Reg) (rn : Operand) :
    decodeP2 op rd rn = .unknownP2 op rd rn := by
  simp only [unknownP2Op, decide_eq_true_eq] at h
  unfold decodeP2
  split <;> first | rfl | omega

/-- What the P2 table gives is well-formed as far as its operand is. -/
theorem decodeP2_wf (op : BitVec 7) (rd : Reg) (rn : Operand) : (decodeP2 op rd rn).wf = rn.fits p2Sentinel := by
  cases h : unknownP2Op op
  · simp only [unknownP2Op, decide_eq_false_iff_not] at h
    unfold decodeP2
    generalize op.toNat = n at h
    obtain h | h : n < 0x0D ∨ 0x20 ≤ n ∧ n < 0x28 := by omega
    · interval_cases n <;> rfl
    · obtain ⟨h1, h2⟩ := h
      interval_cases n <;> rfl
  · simp [decodeP2_unknown h, Instr.wf, h]

/-- An opcode that the P1 table does not name (R119). -/
theorem decodeP1_unknown {op : BitVec 5} (h : unknownP1Op op = true) (rn : Operand) :
    decodeP1 op rn = .unknownP1 op rn := by
  simp only [unknownP1Op, decide_eq_true_eq] at h
  unfold decodeP1
  split <;> first | rfl | omega

/-- What the P1 table gives is well-formed as far as its operand is. -/
theorem decodeP1_wf (op : BitVec 5) (rn : Operand) : (decodeP1 op rn).wf = rn.fits p1Sentinel := by
  cases h : unknownP1Op op
  · simp only [unknownP1Op, decide_eq_false_iff_not] at h
    unfold decodeP1
    generalize op.toNat = n at h
    have : n < 0x0C := by omega
    interval_cases n <;> first | rfl | omega
  · simp [decodeP1_unknown h, Instr.wf, h]

/-- An opcode that the NP table does not name (R120). -/
theorem decodeNP_unknown {op : BitVec 28} (h : unknownNPOp op = true) :
    decodeNP op = .unknownNP op := by
  simp only [unknownNPOp, decide_eq_true_eq] at h
  unfold decodeNP
  split <;> first | rfl | omega

/-- What the NP table gives is well-formed as far as its operand is. -/
theorem decodeNP_wf (op : BitVec 28) : (decodeNP op).wf = true := by
  cases h : unknownNPOp op
  · simp only [unknownNPOp, decide_eq_false_iff_not] at h
    unfold decodeNP
    generalize op.toNat = n at h
    have : n < 3 := by omega
    clear h
    interval_cases n <;> rfl
  · simp [decodeNP_unknown h, Instr.wf, h]

/-- An operand cut out of a word is one that some word stands for (R111, R113). -/
theorem decodeOperand_fits {n : Nat} (hn : n ≤ 32) (sentinel field : BitVec n) (literal : Bool) (c : Word) :
    (decodeOperand sentinel literal field c).fits sentinel = true := by
  unfold decodeOperand
  cases literal
  · rfl
  · simp only [if_true]
    split
    · rfl
    · rename_i h
      have : (field.signExtend 32).setWidth n = field := by
        apply BitVec.eq_of_getLsbD_eq
        intro i hi
        simp [BitVec.getLsbD_signExtend, hi]
        omega
      simp [Operand.fits, this, h]

end Sys2Proof
end

