-- ==== Sys2Proof/Laws/PerInstr.lean ====
section
/-! SUPPORT. The one family of per-instruction lemmas: the length test on an encoded instruction's first word agrees
with the number of words encoded (30_encoding.md R115). -/

namespace Sys2Proof.Laws.LengthFromFirstWord

/-- A well-formed instruction's first word, by itself, tells whether a second follows, and none follows that (R100,
R115). -/
def Statement (i : Instr) : Prop :=
  i.wf = true → ∃ w rest, encode i = w :: rest ∧ rest.length = (if hasContinuation w then 1 else 0)

theorem of_continuation {rn : Operand} {w : Word} (h : hasContinuation w = decide (rn.continuation ≠ [])) :
    ∃ w' rest, w :: rn.continuation = w' :: rest ∧ rest.length = (if hasContinuation w' then 1 else 0) :=
  ⟨w, _, rfl, by rw [h]; cases rn <;> rfl⟩

theorem of_p3 (op : BitVec 6) (rd rs : Reg) (rn : Operand) (h : rn.fits p3Sentinel = true) :
    ∃ w rest, encodeP3 op rd rs rn = w :: rest ∧ rest.length = (if hasContinuation w then 1 else 0) :=
  of_continuation (p3Word_hasContinuation op rd rs rn h)

theorem of_p2 (op : BitVec 7) (rd : Reg) (rn : Operand) (h : rn.fits p2Sentinel = true) :
    ∃ w rest, encodeP2 op rd rn = w :: rest ∧ rest.length = (if hasContinuation w then 1 else 0) :=
  of_continuation (p2Word_hasContinuation op rd rn h)

theorem of_p1 (op : BitVec 5) (rn : Operand) (h : rn.fits p1Sentinel = true) :
    ∃ w rest, encodeP1 op rn = w :: rest ∧ rest.length = (if hasContinuation w then 1 else 0) :=
  of_continuation (p1Word_hasContinuation op rn h)

theorem of_np (op : BitVec 28) :
    ∃ w rest, [npWord op] = w :: rest ∧ rest.length = (if hasContinuation w then 1 else 0) :=
  ⟨_, _, rfl, by simp⟩

end Sys2Proof.Laws.LengthFromFirstWord

namespace Sys2Proof

theorem Laws.LengthFromFirstWord.and (rd rs : Reg) (rn : Operand) : Laws.LengthFromFirstWord.Statement (.and rd rs rn) :=
  Laws.LengthFromFirstWord.of_p3 _ _ _ _
theorem Laws.LengthFromFirstWord.or (rd rs : Reg) (rn : Operand) : Laws.LengthFromFirstWord.Statement (.or rd rs rn) :=
  Laws.LengthFromFirstWord.of_p3 _ _ _ _
theorem Laws.LengthFromFirstWord.xor (rd rs : Reg) (rn : Operand) : Laws.LengthFromFirstWord.Statement (.xor rd rs rn) :=
  Laws.LengthFromFirstWord.of_p3 _ _ _ _
theorem Laws.LengthFromFirstWord.bitc (rd rs : Reg) (rn : Operand) : Laws.LengthFromFirstWord.Statement (.bitc rd rs rn) :=
  Laws.LengthFromFirstWord.of_p3 _ _ _ _
theorem Laws.LengthFromFirstWord.add (rd rs : Reg) (rn : Operand) : Laws.LengthFromFirstWord.Statement (.add rd rs rn) :=
  Laws.LengthFromFirstWord.of_p3 _ _ _ _
theorem Laws.LengthFromFirstWord.addc (rd rs : Reg) (rn : Operand) : Laws.LengthFromFirstWord.Statement (.addc rd rs rn) :=
  Laws.LengthFromFirstWord.of_p3 _ _ _ _
theorem Laws.LengthFromFirstWord.sub (rd rs : Reg) (rn : Operand) : Laws.LengthFromFirstWord.Statement (.sub rd rs rn) :=
  Laws.LengthFromFirstWord.of_p3 _ _ _ _
theorem Laws.LengthFromFirstWord.subb (rd rs : Reg) (rn : Operand) : Laws.LengthFromFirstWord.Statement (.subb rd rs rn) :=
  Laws.LengthFromFirstWord.of_p3 _ _ _ _
theorem Laws.LengthFromFirstWord.rsb (rd rs : Reg) (rn : Operand) : Laws.LengthFromFirstWord.Statement (.rsb rd rs rn) :=
  Laws.LengthFromFirstWord.of_p3 _ _ _ _
theorem Laws.LengthFromFirstWord.rsbb (rd rs : Reg) (rn : Operand) : Laws.LengthFromFirstWord.Statement (.rsbb rd rs rn) :=
  Laws.LengthFromFirstWord.of_p3 _ _ _ _
theorem Laws.LengthFromFirstWord.lls (rd rs : Reg) (rn : Operand) : Laws.LengthFromFirstWord.Statement (.lls rd rs rn) :=
  Laws.LengthFromFirstWord.of_p3 _ _ _ _
theorem Laws.LengthFromFirstWord.rls (rd rs : Reg) (rn : Operand) : Laws.LengthFromFirstWord.Statement (.rls rd rs rn) :=
  Laws.LengthFromFirstWord.of_p3 _ _ _ _
theorem Laws.LengthFromFirstWord.ars (rd rs : Reg) (rn : Operand) : Laws.LengthFromFirstWord.Statement (.ars rd rs rn) :=
  Laws.LengthFromFirstWord.of_p3 _ _ _ _
theorem Laws.LengthFromFirstWord.rotl (rd rs : Reg) (rn : Operand) : Laws.LengthFromFirstWord.Statement (.rotl rd rs rn) :=
  Laws.LengthFromFirstWord.of_p3 _ _ _ _
theorem Laws.LengthFromFirstWord.rotr (rd rs : Reg) (rn : Operand) : Laws.LengthFromFirstWord.Statement (.rotr rd rs rn) :=
  Laws.LengthFromFirstWord.of_p3 _ _ _ _
theorem Laws.LengthFromFirstWord.mul (rd rs : Reg) (rn : Operand) : Laws.LengthFromFirstWord.Statement (.mul rd rs rn) :=
  Laws.LengthFromFirstWord.of_p3 _ _ _ _
theorem Laws.LengthFromFirstWord.smul (rd rs : Reg) (rn : Operand) : Laws.LengthFromFirstWord.Statement (.smul rd rs rn) :=
  Laws.LengthFromFirstWord.of_p3 _ _ _ _
theorem Laws.LengthFromFirstWord.div (rd rs : Reg) (rn : Operand) : Laws.LengthFromFirstWord.Statement (.div rd rs rn) :=
  Laws.LengthFromFirstWord.of_p3 _ _ _ _
theorem Laws.LengthFromFirstWord.sdiv (rd rs : Reg) (rn : Operand) : Laws.LengthFromFirstWord.Statement (.sdiv rd rs rn) :=
  Laws.LengthFromFirstWord.of_p3 _ _ _ _
theorem Laws.LengthFromFirstWord.load (rd rs : Reg) (rn : Operand) : Laws.LengthFromFirstWord.Statement (.load rd rs rn) :=
  Laws.LengthFromFirstWord.of_p3 _ _ _ _
theorem Laws.LengthFromFirstWord.loadw (rd rs : Reg) (rn : Operand) : Laws.LengthFromFirstWord.Statement (.loadw rd rs rn) :=
  Laws.LengthFromFirstWord.of_p3 _ _ _ _
theorem Laws.LengthFromFirstWord.loadb (rd rs : Reg) (rn : Operand) : Laws.LengthFromFirstWord.Statement (.loadb rd rs rn) :=
  Laws.LengthFromFirstWord.of_p3 _ _ _ _
theorem Laws.LengthFromFirstWord.store (rd rs : Reg) (rn : Operand) : Laws.LengthFromFirstWord.Statement (.store rd rs rn) :=
  Laws.LengthFromFirstWord.of_p3 _ _ _ _
theorem Laws.LengthFromFirstWord.storew (rd rs : Reg) (rn : Operand) : Laws.LengthFromFirstWord.Statement (.storew rd rs rn) :=
  Laws.LengthFromFirstWord.of_p3 _ _ _ _
theorem Laws.LengthFromFirstWord.storeb (rd rs : Reg) (rn : Operand) : Laws.LengthFromFirstWord.Statement (.storeb rd rs rn) :=
  Laws.LengthFromFirstWord.of_p3 _ _ _ _
theorem Laws.LengthFromFirstWord.mov (rd : Reg) (rn : Operand) : Laws.LengthFromFirstWord.Statement (.mov rd rn) :=
  Laws.LengthFromFirstWord.of_p2 _ _ _
theorem Laws.LengthFromFirstWord.swp (rd : Reg) (rn : Operand) : Laws.LengthFromFirstWord.Statement (.swp rd rn) :=
  Laws.LengthFromFirstWord.of_p2 _ _ _
theorem Laws.LengthFromFirstWord.sigxb (rd : Reg) (rn : Operand) : Laws.LengthFromFirstWord.Statement (.sigxb rd rn) :=
  Laws.LengthFromFirstWord.of_p2 _ _ _
theorem Laws.LengthFromFirstWord.sigxw (rd : Reg) (rn : Operand) : Laws.LengthFromFirstWord.Statement (.sigxw rd rn) :=
  Laws.LengthFromFirstWord.of_p2 _ _ _
theorem Laws.LengthFromFirstWord.not (rd : Reg) (rn : Operand) : Laws.LengthFromFirstWord.Statement (.not rd rn) :=
  Laws.LengthFromFirstWord.of_p2 _ _ _
theorem Laws.LengthFromFirstWord.load2 (rd : Reg) (rn : Operand) : Laws.LengthFromFirstWord.Statement (.load2 rd rn) :=
  Laws.LengthFromFirstWord.of_p2 _ _ _
theorem Laws.LengthFromFirstWord.loadw2 (rd : Reg) (rn : Operand) : Laws.LengthFromFirstWord.Statement (.loadw2 rd rn) :=
  Laws.LengthFromFirstWord.of_p2 _ _ _
theorem Laws.LengthFromFirstWord.loadb2 (rd : Reg) (rn : Operand) : Laws.LengthFromFirstWord.Statement (.loadb2 rd rn) :=
  Laws.LengthFromFirstWord.of_p2 _ _ _
theorem Laws.LengthFromFirstWord.store2 (rd : Reg) (rn : Operand) : Laws.LengthFromFirstWord.Statement (.store2 rd rn) :=
  Laws.LengthFromFirstWord.of_p2 _ _ _
theorem Laws.LengthFromFirstWord.storew2 (rd : Reg) (rn : Operand) : Laws.LengthFromFirstWord.Statement (.storew2 rd rn) :=
  Laws.LengthFromFirstWord.of_p2 _ _ _
theorem Laws.LengthFromFirstWord.storeb2 (rd : Reg) (rn : Operand) : Laws.LengthFromFirstWord.Statement (.storeb2 rd rn) :=
  Laws.LengthFromFirstWord.of_p2 _ _ _
theorem Laws.LengthFromFirstWord.jmp2 (rd : Reg) (rn : Operand) : Laws.LengthFromFirstWord.Statement (.jmp2 rd rn) :=
  Laws.LengthFromFirstWord.of_p2 _ _ _
theorem Laws.LengthFromFirstWord.call2 (rd : Reg) (rn : Operand) : Laws.LengthFromFirstWord.Statement (.call2 rd rn) :=
  Laws.LengthFromFirstWord.of_p2 _ _ _
theorem Laws.LengthFromFirstWord.ifeq (rd : Reg) (rn : Operand) : Laws.LengthFromFirstWord.Statement (.ifeq rd rn) :=
  Laws.LengthFromFirstWord.of_p2 _ _ _
theorem Laws.LengthFromFirstWord.ifneq (rd : Reg) (rn : Operand) : Laws.LengthFromFirstWord.Statement (.ifneq rd rn) :=
  Laws.LengthFromFirstWord.of_p2 _ _ _
theorem Laws.LengthFromFirstWord.ifl (rd : Reg) (rn : Operand) : Laws.LengthFromFirstWord.Statement (.ifl rd rn) :=
  Laws.LengthFromFirstWord.of_p2 _ _ _
theorem Laws.LengthFromFirstWord.ifsl (rd : Reg) (rn : Operand) : Laws.LengthFromFirstWord.Statement (.ifsl rd rn) :=
  Laws.LengthFromFirstWord.of_p2 _ _ _
theorem Laws.LengthFromFirstWord.ifle (rd : Reg) (rn : Operand) : Laws.LengthFromFirstWord.Statement (.ifle rd rn) :=
  Laws.LengthFromFirstWord.of_p2 _ _ _
theorem Laws.LengthFromFirstWord.ifsle (rd : Reg) (rn : Operand) : Laws.LengthFromFirstWord.Statement (.ifsle rd rn) :=
  Laws.LengthFromFirstWord.of_p2 _ _ _
theorem Laws.LengthFromFirstWord.ifbits (rd : Reg) (rn : Operand) : Laws.LengthFromFirstWord.Statement (.ifbits rd rn) :=
  Laws.LengthFromFirstWord.of_p2 _ _ _
theorem Laws.LengthFromFirstWord.ifclear (rd : Reg) (rn : Operand) : Laws.LengthFromFirstWord.Statement (.ifclear rd rn) :=
  Laws.LengthFromFirstWord.of_p2 _ _ _
theorem Laws.LengthFromFirstWord.xchgb (rn : Operand) : Laws.LengthFromFirstWord.Statement (.xchgb rn) :=
  Laws.LengthFromFirstWord.of_p1 _ _
theorem Laws.LengthFromFirstWord.xchgw (rn : Operand) : Laws.LengthFromFirstWord.Statement (.xchgw rn) :=
  Laws.LengthFromFirstWord.of_p1 _ _
theorem Laws.LengthFromFirstWord.getpc (rn : Operand) : Laws.LengthFromFirstWord.Statement (.getpc rn) :=
  Laws.LengthFromFirstWord.of_p1 _ _
theorem Laws.LengthFromFirstWord.pop (rn : Operand) : Laws.LengthFromFirstWord.Statement (.pop rn) :=
  Laws.LengthFromFirstWord.of_p1 _ _
theorem Laws.LengthFromFirstWord.push (rn : Operand) : Laws.LengthFromFirstWord.Statement (.push rn) :=
  Laws.LengthFromFirstWord.of_p1 _ _
theorem Laws.LengthFromFirstWord.jmp (rn : Operand) : Laws.LengthFromFirstWord.Statement (.jmp rn) :=
  Laws.LengthFromFirstWord.of_p1 _ _
theorem Laws.LengthFromFirstWord.call (rn : Operand) : Laws.LengthFromFirstWord.Statement (.call rn) :=
  Laws.LengthFromFirstWord.of_p1 _ _
theorem Laws.LengthFromFirstWord.rjmp (rn : Operand) : Laws.LengthFromFirstWord.Statement (.rjmp rn) :=
  Laws.LengthFromFirstWord.of_p1 _ _
theorem Laws.LengthFromFirstWord.rcall (rn : Operand) : Laws.LengthFromFirstWord.Statement (.rcall rn) :=
  Laws.LengthFromFirstWord.of_p1 _ _
theorem Laws.LengthFromFirstWord.int (rn : Operand) : Laws.LengthFromFirstWord.Statement (.int rn) :=
  Laws.LengthFromFirstWord.of_p1 _ _
theorem Laws.LengthFromFirstWord.sleep : Laws.LengthFromFirstWord.Statement .sleep :=
  fun _ => Laws.LengthFromFirstWord.of_np _
theorem Laws.LengthFromFirstWord.ret : Laws.LengthFromFirstWord.Statement .ret :=
  fun _ => Laws.LengthFromFirstWord.of_np _
theorem Laws.LengthFromFirstWord.rfi : Laws.LengthFromFirstWord.Statement .rfi :=
  fun _ => Laws.LengthFromFirstWord.of_np _
theorem Laws.LengthFromFirstWord.unknownP3 (op : BitVec 6) (rd rs : Reg) (rn : Operand) :
    Laws.LengthFromFirstWord.Statement (.unknownP3 op rd rs rn) :=
  fun h => Laws.LengthFromFirstWord.of_p3 _ _ _ _ (Bool.and_eq_true_iff.1 h).2
theorem Laws.LengthFromFirstWord.unknownP2 (op : BitVec 7) (rd : Reg) (rn : Operand) :
    Laws.LengthFromFirstWord.Statement (.unknownP2 op rd rn) :=
  fun h => Laws.LengthFromFirstWord.of_p2 _ _ _ (Bool.and_eq_true_iff.1 h).2
theorem Laws.LengthFromFirstWord.unknownP1 (op : BitVec 5) (rn : Operand) :
    Laws.LengthFromFirstWord.Statement (.unknownP1 op rn) :=
  fun h => Laws.LengthFromFirstWord.of_p1 _ _ (Bool.and_eq_true_iff.1 h).2
theorem Laws.LengthFromFirstWord.unknownNP (op : BitVec 28) : Laws.LengthFromFirstWord.Statement (.unknownNP op) :=
  fun _ => Laws.LengthFromFirstWord.of_np _

end Sys2Proof
end

