-- ==== Sys2Proof/Tests/Slice0.lean ====
section
/-! SUPPORT. The implementer's tests: what well-formedness refuses, decoding of words written out from the spec's
encodings, single steps on vectors of 95_test_vectors.md (each names its vector), and, for every statement with
hypotheses, a state and operands that meet them. -/

namespace Sys2Proof.Tests

open Sys2Proof Sys2Proof.Machine Sys2Proof.Claims

/-- The state after reset with registers and D-words of memory set, and words placed at `pc`. -/
def start (words : List Nat) (regs data : List (Nat × Nat)) : State :=
  let s := regs.foldl (fun s p => s.setReg (Fin.ofNat 16 p.1) (BitVec.ofNat 32 p.2)) State.reset
  let s := data.foldl (fun s p => s.writeWord (BitVec.ofNat 32 p.1) (BitVec.ofNat 32 p.2)) s
  s.writeBytes s.pc ((words.map (BitVec.ofNat 32)).flatMap bytesOfWord)

/-- One step answers a next state that passes a check. -/
def gives (s : State) (check : State → Bool) : Bool :=
  match step s with
  | .next t => check t
  | .fault _ => false
  | .refused _ => false

/-! ### Well-formedness refuses (30_encoding.md R111, R113, R117 to R120) -/

theorem test_wf_refuses_literal_beyond_field : ∀ i ∈ [Instr.add 0 1 (.lit 0x1000#32), .add 0 1 (.lit 0xFFFFEFFF#32),
    .mov 0 (.lit 0x20000#32), .mov 0 (.lit 0xFFFDFFFF#32), .push (.lit 0x400000#32), .push (.lit 0xFFBFFFFF#32)],
    i.wf = false := by decide

theorem test_wf_refuses_escape_as_literal : ∀ i ∈ [Instr.add 0 1 (.lit 0xFFFFF000#32), .mov 0 (.lit 0xFFFE0000#32),
    .push (.lit 0xFFC00000#32)], i.wf = false := by decide

theorem test_wf_refuses_named_p3_opcode : ∀ op ∈ [0x00#6, 0x18#6], (Instr.unknownP3 op 0 0 (.reg 0)).wf = false := by
  decide

theorem test_wf_refuses_named_p2_opcode : ∀ op ∈ [0x00#7, 0x0C#7, 0x20#7, 0x27#7],
    (Instr.unknownP2 op 0 (.reg 0)).wf = false := by decide

theorem test_wf_refuses_named_p1_opcode : ∀ op ∈ [0x00#5, 0x02#5, 0x05#5, 0x0B#5],
    (Instr.unknownP1 op (.reg 0)).wf = false := by decide

theorem test_wf_refuses_named_np_opcode : ∀ i ∈ [Instr.unknownNP 0#28, .unknownNP 1#28, .unknownNP 2#28],
    i.wf = false := by decide

theorem test_wf_refuses_unknown_with_bad_literal : ∀ i ∈ [Instr.unknownP3 0x19#6 0 0 (.lit 0x1000#32),
    .unknownP2 0x0D#7 0 (.lit 0x20000#32), .unknownP1 0x0C#5 (.lit 0x400000#32)], i.wf = false := by decide

/-! ### Decoding: every constructor by a word written out from its format -/

/-- P3, R102 and R117: `01`, opcode, L = 0, RN in bits 13 to 10, RS in 8 to 5, RD in 3 to 0. -/
theorem test_decode_p3_alu : ∀ p ∈ ([
    (0b01_000000_0_000000000_0010_0_0001_0_0011, .and 3 1 (.reg 2)),
    (0b01_000001_0_000000000_0010_0_0001_0_0011, .or 3 1 (.reg 2)),
    (0b01_000010_0_000000000_0010_0_0001_0_0011, .xor 3 1 (.reg 2)),
    (0b01_000011_0_000000000_0010_0_0001_0_0011, .bitc 3 1 (.reg 2)),
    (0b01_000100_0_000000000_0010_0_0001_0_0011, .add 3 1 (.reg 2)),
    (0b01_000101_0_000000000_0010_0_0001_0_0011, .addc 3 1 (.reg 2)),
    (0b01_000110_0_000000000_0010_0_0001_0_0011, .sub 3 1 (.reg 2)),
    (0b01_000111_0_000000000_0010_0_0001_0_0011, .subb 3 1 (.reg 2)),
    (0b01_001000_0_000000000_0010_0_0001_0_0011, .rsb 3 1 (.reg 2)),
    (0b01_001001_0_000000000_0010_0_0001_0_0011, .rsbb 3 1 (.reg 2)),
    (0b01_001010_0_000000000_0010_0_0001_0_0011, .lls 3 1 (.reg 2)),
    (0b01_001011_0_000000000_0010_0_0001_0_0011, .rls 3 1 (.reg 2)),
    (0b01_001100_0_000000000_0010_0_0001_0_0011, .ars 3 1 (.reg 2)),
    (0b01_001101_0_000000000_0010_0_0001_0_0011, .rotl 3 1 (.reg 2)),
    (0b01_001110_0_000000000_0010_0_0001_0_0011, .rotr 3 1 (.reg 2))] : List (Nat × Instr)),
    decodeTableWord 32 p.1 = some p.2 := by decide

/-- The rest of P3 (R117, R166). -/
theorem test_decode_p3_other : ∀ p ∈ ([
    (0b01_001111_0_000000000_0010_0_0001_0_0011, .mul 3 1 (.reg 2)),
    (0b01_010000_0_000000000_0010_0_0001_0_0011, .smul 3 1 (.reg 2)),
    (0b01_010001_0_000000000_0010_0_0001_0_0011, .div 3 1 (.reg 2)),
    (0b01_010010_0_000000000_0010_0_0001_0_0011, .sdiv 3 1 (.reg 2)),
    (0b01_010011_0_000000000_0010_0_0001_0_0011, .load 3 1 (.reg 2)),
    (0b01_010100_0_000000000_0010_0_0001_0_0011, .loadw 3 1 (.reg 2)),
    (0b01_010101_0_000000000_0010_0_0001_0_0011, .loadb 3 1 (.reg 2)),
    (0b01_010110_0_000000000_0010_0_0001_0_0011, .store 3 1 (.reg 2)),
    (0b01_010111_0_000000000_0010_0_0001_0_0011, .storew 3 1 (.reg 2)),
    (0b01_011000_0_000000000_0010_0_0001_0_0011, .storeb 3 1 (.reg 2)),
    (0b01_011001_0_000000000_0010_0_0001_0_0011, .unknownP3 0x19#6 3 1 (.reg 2)),
    (0b01_111111_0_000000000_0010_0_0001_0_0011, .unknownP3 0x3F#6 3 1 (.reg 2))] : List (Nat × Instr)),
    decodeTableWord 32 p.1 = some p.2 := by decide

/-- P2, R103 and R118: `1`, opcode, L = 0, RN in bits 8 to 5, RD in 3 to 0. -/
theorem test_decode_p2 : ∀ p ∈ ([
    (0b1_0000000_0_00000000000000_0101_0_0100, .mov 4 (.reg 5)),
    (0b1_0000001_0_00000000000000_0101_0_0100, .swp 4 (.reg 5)),
    (0b1_0000010_0_00000000000000_0101_0_0100, .sigxb 4 (.reg 5)),
    (0b1_0000011_0_00000000000000_0101_0_0100, .sigxw 4 (.reg 5)),
    (0b1_0000100_0_00000000000000_0101_0_0100, .not 4 (.reg 5)),
    (0b1_0000101_0_00000000000000_0101_0_0100, .load2 4 (.reg 5)),
    (0b1_0000110_0_00000000000000_0101_0_0100, .loadw2 4 (.reg 5)),
    (0b1_0000111_0_00000000000000_0101_0_0100, .loadb2 4 (.reg 5)),
    (0b1_0001000_0_00000000000000_0101_0_0100, .store2 4 (.reg 5)),
    (0b1_0001001_0_00000000000000_0101_0_0100, .storew2 4 (.reg 5)),
    (0b1_0001010_0_00000000000000_0101_0_0100, .storeb2 4 (.reg 5)),
    (0b1_0001011_0_00000000000000_0101_0_0100, .jmp2 4 (.reg 5)),
    (0b1_0001100_0_00000000000000_0101_0_0100, .call2 4 (.reg 5))] : List (Nat × Instr)),
    decodeTableWord 32 p.1 = some p.2 := by decide

/-- The rest of P2: the IFxx and unknown opcodes (R118, R230). -/
theorem test_decode_p2_other : ∀ p ∈ ([
    (0b1_0100000_0_00000000000000_0101_0_0100, .ifeq 4 (.reg 5)),
    (0b1_0100001_0_00000000000000_0101_0_0100, .ifneq 4 (.reg 5)),
    (0b1_0100010_0_00000000000000_0101_0_0100, .ifl 4 (.reg 5)),
    (0b1_0100011_0_00000000000000_0101_0_0100, .ifsl 4 (.reg 5)),
    (0b1_0100100_0_00000000000000_0101_0_0100, .ifle 4 (.reg 5)),
    (0b1_0100101_0_00000000000000_0101_0_0100, .ifsle 4 (.reg 5)),
    (0b1_0100110_0_00000000000000_0101_0_0100, .ifbits 4 (.reg 5)),
    (0b1_0100111_0_00000000000000_0101_0_0100, .ifclear 4 (.reg 5)),
    (0b1_0001101_0_00000000000000_0101_0_0100, .unknownP2 0x0D#7 4 (.reg 5)),
    (0b1_0011111_0_00000000000000_0101_0_0100, .unknownP2 0x1F#7 4 (.reg 5)),
    (0b1_0101000_0_00000000000000_0101_0_0100, .unknownP2 0x28#7 4 (.reg 5)),
    (0b1_1111111_0_00000000000000_0101_0_0100, .unknownP2 0x7F#7 4 (.reg 5))] : List (Nat × Instr)),
    decodeTableWord 32 p.1 = some p.2 := by decide

/-- P1, R108 and R119: `001`, opcode, L = 0, RN in bits 3 to 0. -/
theorem test_decode_p1 : ∀ p ∈ ([
    (0b001_00000_0_0000000000000000000_1001, .xchgb (.reg 9)),
    (0b001_00001_0_0000000000000000000_1001, .xchgw (.reg 9)),
    (0b001_00010_0_0000000000000000000_1001, .getpc (.reg 9)),
    (0b001_00101_0_0000000000000000000_1001, .pop (.reg 9)),
    (0b001_00110_0_0000000000000000000_1001, .push (.reg 9)),
    (0b001_00111_0_0000000000000000000_1001, .jmp (.reg 9)),
    (0b001_01000_0_0000000000000000000_1001, .call (.reg 9)),
    (0b001_01001_0_0000000000000000000_1001, .rjmp (.reg 9)),
    (0b001_01010_0_0000000000000000000_1001, .rcall (.reg 9)),
    (0b001_01011_0_0000000000000000000_1001, .int (.reg 9)),
    (0b001_00011_0_0000000000000000000_1001, .unknownP1 0x03#5 (.reg 9)),
    (0b001_00100_0_0000000000000000000_1001, .unknownP1 0x04#5 (.reg 9)),
    (0b001_01100_0_0000000000000000000_1001, .unknownP1 0x0C#5 (.reg 9)),
    (0b001_11111_0_0000000000000000000_1001, .unknownP1 0x1F#5 (.reg 9))] : List (Nat × Instr)),
    decodeTableWord 32 p.1 = some p.2 := by decide

/-- NP, R109 and R120: `000`, an ignored bit, the 28-bit opcode. -/
theorem test_decode_np : ∀ p ∈ ([
    (0b000_0_0000000000000000000000000000, .sleep),
    (0b000_0_0000000000000000000000000001, .ret),
    (0b000_0_0000000000000000000000000010, .rfi),
    (0b000_1_0000000000000000000000000001, .ret),
    (0b000_0_0000000000000000000000000011, .unknownNP 3#28),
    (0b000_0_1111111111111111111111111111, .unknownNP 0x0FFFFFFF#28)] : List (Nat × Instr)),
    decodeTableWord 32 p.1 = some p.2 := by decide

/-- Literals at the ends of their in-word ranges (R113), and the escape (R111): P3, P2, P1. -/
theorem test_decode_literals : ∀ p ∈ ([
    (0b01_000100_1_0111111111111_0_0001_0_0000, .add 0 1 (.lit 0x00000FFF#32)),
    (0b01_000100_1_1000000000001_0_0001_0_0000, .add 0 1 (.lit 0xFFFFF001#32)),
    (0b1_0000000_1_011111111111111111_0_0100, .mov 4 (.lit 0x0001FFFF#32)),
    (0b1_0000000_1_100000000000000001_0_0100, .mov 4 (.lit 0xFFFE0001#32)),
    (0b001_00110_1_01111111111111111111111, .push (.lit 0x003FFFFF#32)),
    (0b001_00110_1_10000000000000000000001, .push (.lit 0xFFC00001#32))] : List (Nat × Instr)),
    decodeTableWord 32 p.1 = some p.2 := by decide

theorem test_decode_escapes : ∀ p ∈ ([
    (0x00001000_00000000 + 0b01_000100_1_1000000000000_0_0001_0_0000, .add 0 1 (.long 0x00001000#32)),
    (0xFFFFFFFF_00000000 + 0b1_0000000_1_100000000000000000_0_0100, .mov 4 (.long 0xFFFFFFFF#32)),
    (0x12345678_00000000 + 0b001_00110_1_10000000000000000000000, .push (.long 0x12345678#32))] : List (Nat × Instr)),
    decodeTableWord 64 p.1 = some p.2 := by decide

/-- A continuation word that the table gives no bits is zeros. -/
theorem test_decode_escape_without_bits :
    decodeTableWord 32 0b1_0000000_1_100000000000000000_0_0100 = some (.mov 4 (.long 0#32)) := by decide

theorem test_decode_refuses_short_bytes : decode [0x00#8, 0x00#8, 0x00#8] = .error .noWord ∧
    decode (bytesOfWord 0x80C00000#32 ++ [0x00#8]) = .error .noContinuation := by decide

/-! ### Memory -/

theorem test_memory_canonical : (State.reset.writeWord 0xFFFFFFFE#32 0x11223344#32).mem =
    [(0, 0x22#8), (1, 0x11#8), (0xFFFFFFFE, 0x44#8), (0xFFFFFFFF, 0x33#8)] ∧
    ((State.reset.writeWord 8#32 5#32).writeWord 8#32 0#32).mem = [] ∧ State.reset.mem.wf := by decide

/-! ### Single steps -/

/-- AR3 (R144): `ADD r3, r1, r2`. -/
theorem test_add_AR3 : gives (start [0x44000823] [(1, 0x80000000), (2, 0x80000000), (3, 0xA5A5A5A5), (15, 0x0)] [])
    (fun t => t.reg 3 == 0x0#32 && t.flag .CF && t.flag .OF && t.pc == 0x100004#32 && t.cost == 3) = true := by decide
/-- AR26 (R131): `ADD r15, r1, r2`. -/
theorem test_add_AR26 : gives (start [0x4400082F] [(1, 0x100), (2, 0x8), (15, 0x1)] [])
    (fun t => t.reg 15 == 0x108#32 && t.pc == 0x100004#32 && t.cost == 3) = true := by decide
/-- AR7 (R145): `ADDC r3, r1, r2`. -/
theorem test_addc_AR7 : gives (start [0x45000823] [(1, 0x7FFFFFFF), (2, 0x0), (3, 0xA5A5A5A5), (15, 0x1)] [])
    (fun t => t.reg 3 == 0x80000000#32 && !t.flag .CF && t.flag .OF && t.pc == 0x100004#32 &&
      t.cost == 3) = true := by decide
/-- AR12 (R146): `SUB r3, r1, r2`. -/
theorem test_sub_AR12 : gives (start [0x46000823] [(1, 0x0), (2, 0x80000000), (3, 0xA5A5A5A5), (15, 0x0)] [])
    (fun t => t.reg 3 == 0x80000000#32 && t.flag .CF && t.flag .OF && t.pc == 0x100004#32 &&
      t.cost == 3) = true := by decide
/-- AR15 (R147): `SUBB r3, r1, r2`. -/
theorem test_subb_AR15 : gives (start [0x47000823] [(1, 0x7), (2, 0xFFFFFFFF), (3, 0xA5A5A5A5), (15, 0x1)] [])
    (fun t => t.reg 3 == 0x7#32 && t.flag .CF && !t.flag .OF && t.pc == 0x100004#32 &&
      t.cost == 3) = true := by decide
/-- AR20 (R148): `RSB r3, r1, r2`. -/
theorem test_rsb_AR20 : gives (start [0x48000823] [(1, 0x1), (2, 0x80000000), (3, 0xA5A5A5A5), (15, 0x0)] [])
    (fun t => t.reg 3 == 0x7FFFFFFF#32 && !t.flag .CF && t.flag .OF && t.pc == 0x100004#32 &&
      t.cost == 3) = true := by decide
/-- AR23 (R149): `RSBB r3, r1, r2`. -/
theorem test_rsbb_AR23 : gives (start [0x49000823] [(1, 0xFFFFFFFF), (2, 0x7), (3, 0xA5A5A5A5), (15, 0x1)] [])
    (fun t => t.reg 3 == 0x7#32 && t.flag .CF && !t.flag .OF && t.pc == 0x100004#32 &&
      t.cost == 3) = true := by decide
/-- SH1 (R140): `AND r3, r1, r2`. -/
theorem test_and_SH1 : gives (start [0x40000823] [(1, 0xF0F0F0F0), (2, 0xFF00FF0), (3, 0xA5A5A5A5), (15, 0x3)] [])
    (fun t => t.reg 3 == 0xF000F0#32 && !t.flag .CF && !t.flag .OF && t.pc == 0x100004#32 &&
      t.cost == 3) = true := by decide
/-- SH2 (R141): `OR r3, r1, r2`. -/
theorem test_or_SH2 : gives (start [0x41000823] [(1, 0xF0F0F0F0), (2, 0xFF00FF0), (3, 0xA5A5A5A5), (15, 0x3)] [])
    (fun t => t.reg 3 == 0xFFF0FFF0#32 && !t.flag .CF && !t.flag .OF && t.pc == 0x100004#32 &&
      t.cost == 3) = true := by decide
/-- SH3 (R142): `XOR r3, r1, r2`. -/
theorem test_xor_SH3 : gives (start [0x42000823] [(1, 0xF0F0F0F0), (2, 0xFF00FF0), (3, 0xA5A5A5A5), (15, 0x3)] [])
    (fun t => t.reg 3 == 0xFF00FF00#32 && !t.flag .CF && !t.flag .OF && t.pc == 0x100004#32 &&
      t.cost == 3) = true := by decide
/-- SH4 (R143): `BITC r3, r1, r2`. -/
theorem test_bitc_SH4 : gives (start [0x43000823] [(1, 0xF0F0F0F0), (2, 0xFF00FF0), (3, 0xA5A5A5A5), (15, 0x3)] [])
    (fun t => t.reg 3 == 0xF000F000#32 && !t.flag .CF && !t.flag .OF && t.pc == 0x100004#32 &&
      t.cost == 3) = true := by decide
/-- SH9 (R150): `LLS r3, r1, r2`. -/
theorem test_lls_SH9 : gives (start [0x4A000823] [(1, 0x80000001), (2, 0x20), (3, 0xA5A5A5A5), (15, 0x3)] [])
    (fun t => t.reg 3 == 0x0#32 && t.flag .CF && !t.flag .OF && t.pc == 0x100004#32 &&
      t.cost == 3) = true := by decide
/-- SH10 (R150): `LLS r3, r1, r2`. -/
theorem test_lls_SH10 : gives (start [0x4A000823] [(1, 0x80000001), (2, 0x21), (3, 0xA5A5A5A5), (15, 0x3)] [])
    (fun t => t.reg 3 == 0x0#32 && !t.flag .CF && !t.flag .OF && t.pc == 0x100004#32 &&
      t.cost == 3) = true := by decide
/-- SH16 (R151): `RLS r3, r1, r2`. -/
theorem test_rls_SH16 : gives (start [0x4B000823] [(1, 0x80000001), (2, 0x20), (3, 0xA5A5A5A5), (15, 0x3)] [])
    (fun t => t.reg 3 == 0x0#32 && t.flag .CF && !t.flag .OF && t.pc == 0x100004#32 &&
      t.cost == 3) = true := by decide
/-- SH23 (R152): `ARS r3, r1, r2`. -/
theorem test_ars_SH23 : gives (start [0x4C000823] [(1, 0x80000001), (2, 0x20), (3, 0xA5A5A5A5), (15, 0x3)] [])
    (fun t => t.reg 3 == 0xFFFFFFFF#32 && t.flag .CF && !t.flag .OF && t.pc == 0x100004#32 &&
      t.cost == 3) = true := by decide
/-- SH25 (R152): `ARS r3, r1, r2`. -/
theorem test_ars_SH25 : gives (start [0x4C000823] [(1, 0x80000001), (2, 0x40), (3, 0xA5A5A5A5), (15, 0x3)] [])
    (fun t => t.reg 3 == 0xFFFFFFFF#32 && t.flag .CF && !t.flag .OF && t.pc == 0x100004#32 &&
      t.cost == 3) = true := by decide
/-- SH34 (R153): `ROTL r3, r1, r2`. -/
theorem test_rotl_SH34 : gives (start [0x4D000823] [(1, 0x80000001), (2, 0x21), (3, 0xA5A5A5A5), (15, 0x3)] [])
    (fun t => t.reg 3 == 0x3#32 && !t.flag .CF && !t.flag .OF && t.pc == 0x100004#32 &&
      t.cost == 3) = true := by decide
/-- SH36 (R154): `ROTR r3, r1, r2`. -/
theorem test_rotr_SH36 : gives (start [0x4E000823] [(1, 0x80000001), (2, 0x1), (3, 0xA5A5A5A5), (15, 0x3)] [])
    (fun t => t.reg 3 == 0xC0000000#32 && !t.flag .CF && !t.flag .OF && t.pc == 0x100004#32 &&
      t.cost == 3) = true := by decide
/-- MD1 (R156): `MUL r3, r1, r2`. -/
theorem test_mul_MD1 : gives (start [0x4F000823] [(1, 0xFFFFFFFF), (2, 0xFFFFFFFF), (3, 0xA5A5A5A5), (11,
      0xB6B6B6B6), (15, 0x3)] [])
    (fun t => t.reg 3 == 0x1#32 && t.reg 11 == 0xFFFFFFFE#32 && !t.flag .CF && !t.flag .OF && !t.flag .DE &&
      t.pc == 0x100004#32 && t.cost == 20) = true := by decide
/-- MD4 (R157): `SMUL r3, r1, r2`. -/
theorem test_smul_MD4 : gives (start [0x50000823] [(1, 0xFFFFFFFE), (2, 0x3), (3, 0xA5A5A5A5), (11, 0xB6B6B6B6),
      (15, 0x3)] [])
    (fun t => t.reg 3 == 0xFFFFFFFA#32 && t.reg 11 == 0xFFFFFFFF#32 && !t.flag .CF && !t.flag .OF && !t.flag .DE &&
      t.pc == 0x100004#32 && t.cost == 30) = true := by decide
/-- MD8 (R158): `DIV r3, r1, r2`. -/
theorem test_div_MD8 : gives (start [0x51000823] [(1, 0xA), (2, 0x3), (3, 0xA5A5A5A5), (11, 0xB6B6B6B6), (15,
      0x3)] [])
    (fun t => t.reg 3 == 0x3#32 && t.reg 11 == 0x1#32 && !t.flag .CF && !t.flag .OF && !t.flag .DE &&
      t.pc == 0x100004#32 && t.cost == 30) = true := by decide
/-- MD17 (R159): `SDIV r3, r1, r2`. -/
theorem test_sdiv_MD17 : gives (start [0x52000823] [(1, 0x80000000), (2, 0x1), (3, 0xA5A5A5A5), (11, 0xB6B6B6B6),
      (15, 0x3)] [])
    (fun t => t.reg 3 == 0x80000000#32 && t.reg 11 == 0x0#32 && !t.flag .CF && !t.flag .OF && !t.flag .DE &&
      t.pc == 0x100004#32 && t.cost == 40) = true := by decide
/-- MD12 (R159): `SDIV r3, r1, r2`. -/
theorem test_sdiv_MD12 : gives (start [0x52000823] [(1, 0xFFFFFFF9), (2, 0x2), (3, 0xA5A5A5A5), (11, 0xB6B6B6B6),
      (15, 0x3)] [])
    (fun t => t.reg 3 == 0xFFFFFFFD#32 && t.reg 11 == 0xFFFFFFFF#32 && !t.flag .CF && !t.flag .OF && !t.flag .DE &&
      t.pc == 0x100004#32 && t.cost == 40) = true := by decide
/-- MD15 (R159): `SDIV r3, r1, r2`. -/
theorem test_sdiv_MD15 : gives (start [0x52000823] [(1, 0x80000000), (2, 0xFFFFFFFF), (3, 0xA5A5A5A5), (11,
      0xB6B6B6B6), (15, 0x3)] [])
    (fun t => t.reg 3 == 0x80000000#32 && t.reg 11 == 0x0#32 && !t.flag .CF && !t.flag .OF && !t.flag .DE &&
      t.pc == 0x100004#32 && t.cost == 40) = true := by decide
/-- ME8 (R163): `STORE r1, r2, 0`. -/
theorem test_store_ME8 : gives (start [0x56800041] [(1, 0x11223344), (2, 0xFFFFFFFE)] [])
    (fun t => t.pc == 0x100004#32 && t.readByte 0x0#32 == 0x22#8 && t.readByte 0x1#32 == 0x11#8 &&
      t.readByte 0xFFFFFFFE#32 == 0x44#8 && t.readByte 0xFFFFFFFF#32 == 0x33#8 && t.cost == 3) = true := by decide
/-- ME2 (R164): `STOREW r1, r2, 2`. -/
theorem test_storew_ME2 : gives (start [0x57800841] [(1, 0xCAFEBABE), (2, 0x2000)] [])
    (fun t => t.pc == 0x100004#32 && t.readByte 0x2002#32 == 0xBE#8 && t.readByte 0x2003#32 == 0xBA#8 &&
      t.cost == 3) = true := by decide
/-- ME3 (R165): `STOREB r1, r2, r4`. -/
theorem test_storeb_ME3 : gives (start [0x58001041] [(1, 0xCAFEBABE), (2, 0x2000), (4, 0x3)] [])
    (fun t => t.pc == 0x100004#32 && t.readByte 0x2003#32 == 0xBE#8 && t.cost == 3) = true := by decide
/-- ME7 (R160): `LOAD r3, r2, 1`. -/
theorem test_load_ME7 : gives (start [0x53800443] [(2, 0x2000)] [(0x2000, 0x89ABCDEF), (0x2004, 0x42)])
    (fun t => t.reg 3 == 0x4289ABCD#32 && t.pc == 0x100004#32 && t.cost == 3) = true := by decide
/-- ME5 (R161): `LOADW r3, r2, 2`. -/
theorem test_loadw_ME5 : gives (start [0x54800843] [(2, 0x2000)] [(0x2000, 0x89ABCDEF)])
    (fun t => t.reg 3 == 0x89AB#32 && t.pc == 0x100004#32 && t.cost == 3) = true := by decide
/-- ME6 (R162): `LOADB r3, r2, 3`. -/
theorem test_loadb_ME6 : gives (start [0x55800C43] [(2, 0x2000)] [(0x2000, 0x89ABCDEF)])
    (fun t => t.reg 3 == 0x89#32 && t.pc == 0x100004#32 && t.cost == 3) = true := by decide
/-- LT8 (R166): `P3 top byte 0x7F, L = 1, sentinel (unknown, top bits 011)`. -/
theorem test_unknown_p3_LT8 : gives (start [0x7FC00023, 0xDEADBEEF] [(1, 0x1)] [])
    (fun t => t.pc == 0x100008#32 && t.cost == 4) = true := by decide
/-- MV10 (R200): `MOV r15, r5`. -/
theorem test_mov_MV10 : gives (start [0x800000AF] [(5, 0x10B)] [])
    (fun t => t.flag .CF && t.flag .OF && t.flag .IF && t.flag .EI && t.pc == 0x100004#32 &&
      t.cost == 3) = true := by decide
/-- MV6 (R200): `SET r4, -0x1ffff`. -/
theorem test_mov_MV6 : gives (start [0x80C00024] [(4, 0xA5A5A5A5)] [])
    (fun t => t.reg 4 == 0xFFFE0001#32 && t.pc == 0x100004#32 && t.cost == 3) = true := by decide
/-- MV11 (R201): `SWP r1, r2`. -/
theorem test_swp_MV11 : gives (start [0x81000041] [(1, 0x1), (2, 0x2)] [])
    (fun t => t.reg 1 == 0x2#32 && t.reg 2 == 0x1#32 && t.pc == 0x100004#32 && t.cost == 3) = true := by decide
/-- MV14 (R201): `SWP r1, 0x00023456`. -/
theorem test_swp_MV14 : gives (start [0x81C00001, 0x23456] [(1, 0x1)] [])
    (fun t => t.pc == 0x100008#32 && t.cost == 4) = true := by decide
/-- MV17 (R202): `SIGXB r4, r5`. -/
theorem test_sigxb_MV17 : gives (start [0x820000A4] [(4, 0xA5A5A5A5), (5, 0x12345680)] [])
    (fun t => t.reg 4 == 0xFFFFFF80#32 && t.pc == 0x100004#32 && t.cost == 3) = true := by decide
/-- MV20 (R203): `SIGXW r4, r5`. -/
theorem test_sigxw_MV20 : gives (start [0x830000A4] [(4, 0xA5A5A5A5), (5, 0xABCD8000)] [])
    (fun t => t.reg 4 == 0xFFFF8000#32 && t.pc == 0x100004#32 && t.cost == 3) = true := by decide
/-- MV23 (R204): `NOT r4, 0x0F0F0F0F`. -/
theorem test_not_MV23 : gives (start [0x84C00004, 0xF0F0F0F] [(4, 0xA5A5A5A5)] [])
    (fun t => t.reg 4 == 0xF0F0F0F0#32 && t.pc == 0x100008#32 && t.cost == 4) = true := by decide
/-- MM4 (R205): `LOAD2 r1, r1`. -/
theorem test_load2_MM4 : gives (start [0x85000021] [(1, 0x2000)] [(0x2000, 0x12345678)])
    (fun t => t.reg 1 == 0x12345678#32 && t.pc == 0x100004#32 && t.cost == 3) = true := by decide
/-- MM5 (R206): `LOADW2 r1, 0x2003`. -/
theorem test_loadw2_MM5 : gives (start [0x86840061] [] [(0x2000, 0x12345678), (0x2004, 0xAB)])
    (fun t => t.reg 1 == 0xAB12#32 && t.pc == 0x100004#32 && t.cost == 3) = true := by decide
/-- MM3 (R207): `LOADB2 r1, 0x2003`. -/
theorem test_loadb2_MM3 : gives (start [0x87840061] [] [(0x2000, 0x12345678)])
    (fun t => t.reg 1 == 0x12#32 && t.pc == 0x100004#32 && t.cost == 3) = true := by decide
/-- MM9 (R208): `STORE2 r1, r1`. -/
theorem test_store2_MM9 : gives (start [0x88000021] [(1, 0x3000)] [])
    (fun t => t.pc == 0x100004#32 && t.readByte 0x3000#32 == 0x0#8 && t.readByte 0x3001#32 == 0x30#8 &&
      t.readByte 0x3002#32 == 0x0#8 && t.readByte 0x3003#32 == 0x0#8 && t.cost == 3) = true := by decide
/-- MM7 (R209): `STOREW2 r1, 0x3000`. -/
theorem test_storew2_MM7 : gives (start [0x89860001] [(1, 0xCAFEBABE)] [])
    (fun t => t.pc == 0x100004#32 && t.readByte 0x3000#32 == 0xBE#8 && t.readByte 0x3001#32 == 0xBA#8 &&
      t.cost == 3) = true := by decide
/-- MM8 (R210): `STOREB2 r1, 0x3000`. -/
theorem test_storeb2_MM8 : gives (start [0x8A860001] [(1, 0xCAFEBABE)] [])
    (fun t => t.pc == 0x100004#32 && t.readByte 0x3000#32 == 0xBE#8 && t.cost == 3) = true := by decide
/-- JC2 (R211): `JMP2 r1, -1`. -/
theorem test_jmp2_JC2 : gives (start [0x8BFFFFE1] [(1, 0x0)] [])
    (fun t => t.pc == 0xFFFFFFFC#32 && t.cost == 3) = true := by decide
/-- JC4 (R212): `CALL2 r13, 0`. -/
theorem test_call2_JC4 : gives (start [0x8C80000D] [(13, 0x8000)] [])
    (fun t => t.reg 13 == 0x7FFC#32 && t.pc == 0x7FFC#32 && t.readByte 0x7FFC#32 == 0x4#8 &&
      t.readByte 0x7FFD#32 == 0x0#8 && t.readByte 0x7FFE#32 == 0x10#8 && t.readByte 0x7FFF#32 == 0x0#8 &&
      t.cost == 4) = true := by decide
/-- JC5 (R212): `CALL2 r1, r13`. -/
theorem test_call2_JC5 : gives (start [0x8C0001A1] [(1, 0x0), (13, 0x8000)] [])
    (fun t => t.reg 13 == 0x7FFC#32 && t.pc == 0x8000#32 && t.readByte 0x7FFC#32 == 0x4#8 &&
      t.readByte 0x7FFD#32 == 0x0#8 && t.readByte 0x7FFE#32 == 0x10#8 && t.readByte 0x7FFF#32 == 0x0#8 &&
      t.cost == 4) = true := by decide
/-- IF18 (R221): `IFEQ r1, 0x12345678`. -/
theorem test_ifeq_IF18 : gives (start [0xA0C00001, 0x12345678] [(1, 0x0)] [])
    (fun t => t.pc == 0x100008#32 && t.skipping && t.cost == 5) = true := by decide
/-- IF4 (R222): `IFNEQ r1, r2`. -/
theorem test_ifneq_IF4 : gives (start [0xA1000041] [(1, 0x5), (2, 0x5)] [])
    (fun t => t.pc == 0x100004#32 && t.skipping && t.cost == 4) = true := by decide
/-- IF5 (R223): `IFL r1, r2`. -/
theorem test_ifl_IF5 : gives (start [0xA2000041] [(1, 0x1), (2, 0xFFFFFFFF)] [])
    (fun t => t.pc == 0x100004#32 && t.cost == 3) = true := by decide
/-- IF7 (R224): `IFSL r1, r2`. -/
theorem test_ifsl_IF7 : gives (start [0xA3000041] [(1, 0xFFFFFFFF), (2, 0x1)] [])
    (fun t => t.pc == 0x100004#32 && t.cost == 3) = true := by decide
/-- IF9 (R225): `IFLE r1, r2`. -/
theorem test_ifle_IF9 : gives (start [0xA4000041] [(1, 0x7), (2, 0x7)] [])
    (fun t => t.pc == 0x100004#32 && t.cost == 3) = true := by decide
/-- IF12 (R226): `IFSLE r1, r2`. -/
theorem test_ifsle_IF12 : gives (start [0xA5000041] [(1, 0x0), (2, 0xFFFFFFFF)] [])
    (fun t => t.pc == 0x100004#32 && t.skipping && t.cost == 4) = true := by decide
/-- IF14 (R227): `IFBITS r1, r2`. -/
theorem test_ifbits_IF14 : gives (start [0xA6000041] [(1, 0xF0), (2, 0xF)] [])
    (fun t => t.pc == 0x100004#32 && t.skipping && t.cost == 4) = true := by decide
/-- IF16 (R228): `IFCLEAR r1, r2`. -/
theorem test_ifclear_IF16 : gives (start [0xA7000041] [(1, 0xF), (2, 0x8)] [])
    (fun t => t.pc == 0x100004#32 && t.skipping && t.cost == 4) = true := by decide
/-- UB2 (R230): `P2 top byte 0xA8, L = 1, sentinel (unknown, inside the 101 block)`. -/
theorem test_unknown_p2_UB2 : gives (start [0xA8C00001, 0x11111111] [(1, 0x7)] [])
    (fun t => t.pc == 0x100008#32 && t.cost == 4) = true := by decide
/-- XR1 (R240): `XCHGB r2`. -/
theorem test_xchgb_XR1 : gives (start [0x20000002] [(2, 0xAABBCCDD)] [])
    (fun t => t.reg 2 == 0xAABBDDCC#32 && t.pc == 0x100004#32 && t.cost == 3) = true := by decide
/-- XR7 (R241): `XCHGW r15`. -/
theorem test_xchgw_XR7 : gives (start [0x2100000F] [(15, 0x100)] [])
    (fun t => !t.flag .EI && t.reg 15 == 0x1000000#32 && t.pc == 0x100004#32 && t.cost == 3) = true := by decide
/-- SK5 (R245): `PUSH r1`. -/
theorem test_push_SK5 : gives (start [0x26000001] [(1, 0xA1B2C3D4), (13, 0x0)] [])
    (fun t => t.reg 13 == 0xFFFFFFFC#32 && t.pc == 0x100004#32 && t.readByte 0xFFFFFFFC#32 == 0xD4#8 &&
      t.readByte 0xFFFFFFFD#32 == 0xC3#8 && t.readByte 0xFFFFFFFE#32 == 0xB2#8 &&
      t.readByte 0xFFFFFFFF#32 == 0xA1#8 && t.cost == 3) = true := by decide
/-- SK6 (R244): `POP r13`. -/
theorem test_pop_SK6 : gives (start [0x2500000D] [(13, 0x7FFC)] [(0x7FFC, 0x8000)])
    (fun t => t.reg 13 == 0x8004#32 && t.pc == 0x100004#32 && t.cost == 3) = true := by decide
/-- SK7 (R244): `POP r1`. -/
theorem test_pop_SK7 : gives (start [0x25000001] [(13, 0xFFFFFFFC)] [(0xFFFFFFFC, 0x55667788)])
    (fun t => t.reg 1 == 0x55667788#32 && t.reg 13 == 0x0#32 && t.pc == 0x100004#32 &&
      t.cost == 3) = true := by decide
/-- JP2 (R246): `JMP 0x1003`. -/
theorem test_jmp_JP2 : gives (start [0x27801003] [] [])
    (fun t => t.pc == 0x1000#32 && t.cost == 3) = true := by decide
/-- JP5 (R247): `CALL r13`. -/
theorem test_call_JP5 : gives (start [0x2800000D] [(13, 0x8000)] [])
    (fun t => t.reg 13 == 0x7FFC#32 && t.pc == 0x8000#32 && t.readByte 0x7FFC#32 == 0x4#8 &&
      t.readByte 0x7FFD#32 == 0x0#8 && t.readByte 0x7FFE#32 == 0x10#8 && t.readByte 0x7FFF#32 == 0x0#8 &&
      t.cost == 4) = true := by decide
/-- JP9 (R248): `RJMP -0x100008`. -/
theorem test_rjmp_JP9 : gives (start [0x29EFFFF8] [] [])
    (fun t => t.pc == 0xFFFFFFFC#32 && t.cost == 3) = true := by decide
/-- JP11 (R249): `RCALL 0x123`. -/
theorem test_rcall_JP11 : gives (start [0x2A800123] [(13, 0x8000)] [])
    (fun t => t.reg 13 == 0x7FFC#32 && t.pc == 0x100124#32 && t.readByte 0x7FFC#32 == 0x4#8 &&
      t.readByte 0x7FFD#32 == 0x0#8 && t.readByte 0x7FFE#32 == 0x10#8 && t.readByte 0x7FFF#32 == 0x0#8 &&
      t.cost == 4) = true := by decide
/-- JP12 (R250): `INT 5`. -/
theorem test_int_JP12 : gives (start [0x2B800005] [(0, 0xAA), (13, 0x8000), (14, 0x3000), (15, 0x100)] [(0x3014,
      0x1000)])
    (fun t => t.reg 0 == 0x5#32 && t.reg 13 == 0x7FF8#32 && t.flag .IF && t.pc == 0x1000#32 && t.intMsg == 5#8 &&
      t.readByte 0x7FF8#32 == 0x4#8 && t.readByte 0x7FF9#32 == 0x0#8 && t.readByte 0x7FFA#32 == 0x10#8 &&
      t.readByte 0x7FFB#32 == 0x0#8 && t.readByte 0x7FFC#32 == 0xAA#8 && t.readByte 0x7FFD#32 == 0x0#8 &&
      t.readByte 0x7FFE#32 == 0x0#8 && t.readByte 0x7FFF#32 == 0x0#8 && t.cost == 6) = true := by decide
/-- JP15 (R250): `INT 6`. -/
theorem test_int_JP15 : gives (start [0x2B800006] [(13, 0x8000), (14, 0x3000), (15, 0x100)] [(0x3014, 0x1000)])
    (fun t => t.pc == 0x100004#32 && t.intMsg == 6#8 && t.cost == 6) = true := by decide
/-- UA2 (R252): `P1 top byte 0x3F, L = 1, sentinel (unknown)`. -/
theorem test_unknown_p1_UA2 : gives (start [0x3FC00000, 0x22222222] [] [])
    (fun t => t.pc == 0x100008#32 && t.cost == 4) = true := by decide
/-- NP1 (R270): `SLEEP`. -/
theorem test_sleep_NP1 : gives (start [0x0] [] [])
    (fun t => t.pc == 0x100004#32 && t.sleeping && t.cost == 1) = true := by decide
/-- NP4 (R272): `RET`. -/
theorem test_ret_NP4 : gives (start [0x1] [(13, 0x7FFC)] [(0x7FFC, 0x1003)])
    (fun t => t.reg 13 == 0x8000#32 && t.pc == 0x1000#32 && t.cost == 4) = true := by decide
/-- NP6 (R273): `RFI`. -/
theorem test_rfi_NP6 : gives ({ start [0x2] [(13, 0x7FF8), (15, 0x108)] [(0x7FF8, 0x1002), (0x7FFC,
      0x0)] with interrupt := true, intMsg := 9#8 })
    (fun t => t.reg 13 == 0x8000#32 && !t.flag .IF && t.pc == 0x1000#32 && !t.interrupt &&
      t.cost == 6) = true := by decide
/-- NP8 (R274): `NP opcode 0x0FFFFFFF (unknown)`. -/
theorem test_unknown_np_NP8 : gives (start [0xFFFFFFF] [] [])
    (fun t => t.pc == 0x100004#32 && t.cost == 1) = true := by decide

/-- A skip step over an 8-byte instruction, and over an IFxx (44_step_cycle.md R294, R295). -/
theorem test_skip_step : gives { start [0x44C00020, 0x12345678] [] [] with skipping := true }
    (fun t => t.pc == 0x100008#32 && !t.skipping && t.reg 0 == 0#32 && t.cost == 1) = true ∧
    gives { start [0xA7000041] [] [] with skipping := true } (fun t => t.pc == 0x100004#32 && t.skipping) = true := by
  decide

/-- A sleep step that wakes (60_exceptions.md R327; vector T4, step 7's shape). -/
theorem test_sleep_step_wakes : gives { start [] [(13, 0x8000), (14, 0x3000), (15, 0x100)] [(0x300C, 0x0010000C)] with
      sleeping := true, interrupt := true, intMsg := 3#8 }
    (fun t => t.pc == 0x10000C#32 && t.reg 0 == 3#32 && t.reg 15 == 0x108#32 && t.reg 13 == 0x7FF8#32 && !t.sleeping &&
      !t.interrupt && t.cost == 1) = true := by decide

/-- Step mode (60_exceptions.md R336): the step of `MOV r1, 1` ends in handler 0. -/
theorem test_step_mode : gives { start [0x80800021] [(13, 0x8000), (14, 0x3000), (15, 0x100)] [(0x3000, 0x0010000C)] with
      stepMode := true }
    (fun t => t.pc == 0x10000C#32 && t.reg 1 == 1#32 && t.flag .IF && t.readWord 0x7FF8#32 == 0x100004#32) = true := by
  decide

/-! ### Witnesses: the hypotheses of each statement are met -/

/-- Every operand form, at the ends of its range, and every unknown family (DecodeOfEncodeIsIdentity,
FirstWordTellsLength). -/
theorem witness_wf : ∀ i ∈ [Instr.add 15 0 (.reg 15), .add 0 1 (.lit 0x00000FFF#32), .add 0 1 (.lit 0xFFFFF001#32),
    .add 0 1 (.long 0#32), .mov 0 (.lit 0x0001FFFF#32), .mov 0 (.lit 0xFFFE0001#32), .mov 0 (.long 0xFFFE0000#32),
    .push (.lit 0x003FFFFF#32), .push (.lit 0xFFC00001#32), .push (.long 0xFFFFFFFF#32), .sleep,
    .unknownP3 0x19#6 1 2 (.reg 3), .unknownP2 0x1F#7 1 (.reg 3), .unknownP2 0x28#7 1 (.lit 0#32),
    .unknownP1 4#5 (.reg 3), .unknownP1 0x0C#5 (.reg 3), .unknownNP 3#28], i.wf = true := by decide

/-- Ignored bits of each family and literal flag. -/
theorem witness_IgnoredBitsChangeNothing :
    0x007FC210#32 &&& ~~~ignoredBits 0x44000820#32 = 0#32 ∧
    0x00000210#32 &&& ~~~ignoredBits 0x44C00020#32 = 0#32 ∧
    0x007FFE10#32 &&& ~~~ignoredBits 0x80000041#32 = 0#32 ∧
    0x00000010#32 &&& ~~~ignoredBits 0x80800041#32 = 0#32 ∧
    0x007FFFF0#32 &&& ~~~ignoredBits 0x26000001#32 = 0#32 ∧
    0#32 &&& ~~~ignoredBits 0x26800001#32 = 0#32 ∧
    0x10000000#32 &&& ~~~ignoredBits 0x00000001#32 = 0#32 ∧
    0x10000000#32 &&& ~~~ignoredBits 0x00800001#32 = 0#32 := by decide

theorem witness_RegisterOperandsStandInTheirFields : family 0x7F000823#32 = .p3 ∧ family 0x807FFE51#32 = .p2 ∧
    family 0x267FFFF1#32 = .p1 ∧ literalFlag 0x7F000823#32 = false ∧ literalFlag 0x44FFFC20#32 = true ∧
    family 0x44FFFC20#32 = .p3 := by decide

theorem witness_SendInterruptNeedsEI :
    State.reset.flag .EI = false ∧ (start [] [(15, 0x100)] []).flag .EI = true := by decide

theorem witness_TickSpendsTheStepsCost_waiting : 3 ≤ State.waitCycles { State.reset with waitCycles := 3 } := by decide

theorem witness_TickSpendsTheStepsCost_step :
    (start [0x44FFFC20] [] []).waitCycles = 0 ∧ ∃ t, step (start [0x44FFFC20] [] []) = .next t := ⟨rfl, _, rfl⟩

/-- StepKeepsHostState, StepCostBetweenOneAndFortyOne (its least: SLEEP, in empty memory). -/
theorem witness_step_of_cost_one : ∃ t, step State.reset = .next t ∧ t.cost = 1 := ⟨_, rfl, rfl⟩

/-- StepCostBetweenOneAndFortyOne (its greatest: SDIV with a continuation word). -/
theorem witness_step_of_cost_41 : gives (start [0x52C00020, 7] [] []) (fun t => t.cost == 41) = true := by decide

theorem witness_StepRunsDecodedInstruction :
    let s := start [0x44C00020, 0xFFFFF000] [] []
    s.sleeping = false ∧ s.skipping = false ∧
    decode (s.readBytes s.pc (if hasContinuation (s.readWord s.pc) then 8 else 4)) =
      .ok (.add 0 1 (.long 0xFFFFF000#32), []) ∧
    ∃ u, exec (.add 0 1 (.long 0xFFFFF000#32))
      { s with pc := s.pc + (if hasContinuation (s.readWord s.pc) then 8#32 else 4#32)
               cost := if hasContinuation (s.readWord s.pc) then 1 else 0 } = .next u :=
  ⟨by decide, by decide, by decide, _, rfl⟩

/-- With the check's condition true, EI set (the first) and clear (the second). -/
theorem witness_StepModeCheckRequestsZero :
    let s : State := { start [0x80800021] [(15, 0x100)] [] with stepMode := true }
    let s' : State := { start [0x80800021] [] [] with stepMode := true }
    (s.sleeping = false ∧ s.skipping = false ∧ decode s.fetchBytes = .ok (.mov 1 (.lit 1#32), []) ∧
      ∃ u, exec (.mov 1 (.lit 1#32)) s.afterDecode = .next u ∧ u.stepMode = true ∧ u.flag .IF = false ∧
        u.flag .EI = true) ∧
    (s'.sleeping = false ∧ s'.skipping = false ∧ decode s'.fetchBytes = .ok (.mov 1 (.lit 1#32), []) ∧
      ∃ u, exec (.mov 1 (.lit 1#32)) s'.afterDecode = .next u ∧ u.stepMode = true ∧ u.flag .IF = false ∧
        u.flag .EI = false) :=
  ⟨⟨by decide, by decide, by decide, _, rfl, by decide, by decide, by decide⟩,
    by decide, by decide, by decide, _, rfl, by decide, by decide, by decide⟩

theorem witness_SleepStepRunsControllerOnly : State.sleeping { State.reset with sleeping := true } = true := rfl

theorem witness_SkipStepPassesOneInstruction :
    let s : State := { start [0xA0C00001, 5] [] [] with skipping := true }
    s.sleeping = false ∧ s.skipping = true ∧ hasContinuation (s.readWord s.pc) = true ∧
      inChainSkipSet (s.readWord s.pc) = true := by decide

/-- A state with memory listed, awake and skipping (StepKeepsGoodState). -/
theorem witness_StepKeepsGoodState :
    let s : State := { start [0x44C00020, 0x12345678] [] [] with skipping := true }
    s.Inv ∧ ∃ t, step s = .next t := ⟨⟨by decide, by unfold State.oneMode; decide⟩, _, rfl⟩

/-- Each port event answers a next state from a good one (PortEventsKeepGoodState). -/
theorem witness_PortEventsKeepGoodState :
    (start [0x44FFFC20] [(15, 0x100)] []).Inv ∧
    ∀ e ∈ [PortEvent.reset, .step, .tick 2, .sendInterrupt 7#8, .setStepMode true, .busWrite 7#32 1#8],
      ∃ t, (start [0x44FFFC20] [(15, 0x100)] []).onEvent e = .next t := by
  refine ⟨⟨by decide, by unfold State.oneMode; decide⟩, ?_⟩
  intro e he
  simp only [List.mem_cons, List.not_mem_nil, or_false] at he
  rcases he with rfl | rfl | rfl | rfl | rfl | rfl <;> exact ⟨_, rfl⟩

/-- A destination other than FLAGS and Y (OverflowFlagIsSignedOverflow, AluEffect, WideEffect), and FLAGS and Y
themselves, the cases those effects set apart. -/
theorem witness_destinations : (3 : Reg) ≠ Reg.flags ∧ (3 : Reg) ≠ Reg.y ∧ (15 : Reg) = Reg.flags ∧ (11 : Reg) = Reg.y := by
  decide

/-- Shift counts at the ends of their clauses: 0, 1, 32, 33 and 0xFFFFFFFF are all operands' values. -/
theorem witness_ShiftsAreExactForEveryCount : ∀ n ∈ [0, 1, 32, 33, 0xFFFFFFFF],
    ((start [] [(2, n)] []).operand (.reg 2)).toNat = n := by decide

/-- A zero divisor and one that is not (UnsignedDivision, SignedDivision). -/
theorem witness_division : (start [] [] []).operand (.reg 2) = 0#32 ∧ (start [] [(2, 3)] []).operand (.reg 2) ≠ 0#32 := by
  decide

/-- The overflowing signed division, its divisor not zero, and its neighbour that is not that clause's. -/
theorem witness_SignedDivision_overflow :
    let s := start [] [(1, 0x80000000), (2, 0xFFFFFFFF), (3, 0x80000001)] []
    s.reg 1 = 0x80000000#32 ∧ s.operand (.reg 2) = 0xFFFFFFFF#32 ∧ s.operand (.reg 2) ≠ 0#32 ∧
      ¬(s.reg 3 = 0x80000000#32 ∧ s.operand (.reg 2) = 0xFFFFFFFF#32) := by decide

/-- POP of SP and of another register (PushAndPopInstructions, PopAfterPushGivesValue). -/
theorem witness_pop_registers : (13 : Reg) = Reg.sp ∧ (3 : Reg) ≠ Reg.sp := by decide

theorem witness_ReturnUndoesCall : State.reset.pcAligned := by unfold State.pcAligned; decide

theorem witness_EnableBitGatesInterrupts :
    State.flag { State.reset with interrupt := true } .EI = false ∧ State.reset.interrupt = false ∧
    (∃ t, exec (.mov 1 (.lit 1#32)) State.reset = .next t) ∧ Reg.flags ∉ named (.mov 1 (.lit 1#32)) :=
  ⟨by decide, rfl, ⟨_, rfl⟩, by decide⟩

/-- A pending message 5 with EI = 1 and a null vector; the last message, whose entry wraps past 0xFFFFFFFF. -/
theorem witness_NullVectorDropsTheRequest :
    let s : State := { start [] [(14, 0x3000), (15, 0x100)] [] with interrupt := true, intMsg := 5#8 }
    let s' : State := { start [] [(14, 0xFFFFFFFE), (15, 0x100)] [] with interrupt := true, intMsg := 255#8 }
    (s.interrupt = true ∧ s.flag .EI = true ∧ s.readWord (entryAddress s s.intMsg) = 0#32) ∧
    (s'.interrupt = true ∧ s'.flag .EI = true ∧ s'.readWord (entryAddress s' s'.intMsg) = 0#32) := by decide

/-- A pending message with a vector that is not null (AcceptanceEntersTheHandler,
ReturnFromInterruptUndoesAcceptance). -/
theorem witness_acceptance :
    let s : State := { start [] [(13, 4), (14, 0x3000), (15, 0x100)] [(0x3014, 0x1000)] with
      interrupt := true, intMsg := 5#8 }
    s.interrupt = true ∧ s.flag .EI = true ∧ s.readWord (entryAddress s s.intMsg) ≠ 0#32 ∧ s.pc &&& 3#32 = 0#32 := by
  decide

/-- INT 5 outside and inside step mode, whose messages are 5 and 0. -/
theorem witness_SoftwareInterruptIsTakenAtOnce :
    let s := start [0x2B800005] [(14, 0x3000), (15, 0x100)] [(0x3014, 0x1000), (0x3000, 0x2000)]
    s.sleeping = false ∧ s.skipping = false ∧ decode s.fetchBytes = .ok (.int (.lit 5#32), []) ∧ s.flag .EI = true ∧
    s.readWord (entryAddress s 5#8) ≠ 0#32 ∧ s.stepMode = false ∧ s.flag .IF = false ∧
    (let s' : State := { s with stepMode := true }
     s'.stepMode = true ∧ s'.flag .IF = false ∧ decode s'.fetchBytes = .ok (.int (.lit 5#32), []) ∧
       s'.readWord (entryAddress s' 0#8) ≠ 0#32) := by decide

/-- Asleep with EI = 0, a request pending, and events of every kind but reset. -/
theorem witness_SleepWithoutEIIsForever :
    let s : State := { State.reset with sleeping := true, interrupt := true }
    s.sleeping = true ∧ s.flag .EI = false ∧
    let es := [PortEvent.sendInterrupt 3#8, .step, .tick 2, .setStepMode true]
    PortEvent.reset ∉ es ∧ (∀ a b, PortEvent.busWrite a b ∉ es) ∧ (∃ t, s.onEvents es = .next t) ∧
      ∃ t, s.onEvents (.busWrite 0#32 1#8 :: es) = .next t :=
  ⟨rfl, by decide, by decide, by simp, ⟨_, rfl⟩, ⟨_, rfl⟩⟩

/-- `exec` answers a next state for one instruction of each shape (OnlyWrittenRegistersChange,
ControlBitsOfFlagsNeedAWrite, OnlyStoresChangeMemory, ModesChangeOnlyByTheirInstructions, TransfersLeavePcAligned). -/
theorem witness_exec_next : ∀ i ∈ [Instr.add 1 2 (.reg 3), .div 1 2 (.reg 3), .load 1 2 (.lit 0#32),
    .store 1 2 (.long 0xFFFFFFFE#32), .swp 1 (.reg 15), .swp 1 (.lit 0#32), .ifeq 1 (.reg 2), .call2 13 (.reg 13),
    .pop (.reg 13), .pop (.lit 0#32), .int (.lit 5#32), .sleep, .ret, .rfi, .unknownNP 3#28],
    ∃ t, exec i (start [] [(15, 0x100)] []) = .next t := by
  intro i hi
  simp only [List.mem_cons, List.not_mem_nil, or_false] at hi
  rcases hi with rfl | rfl | rfl | rfl | rfl | rfl | rfl | rfl | rfl | rfl | rfl | rfl | rfl | rfl | rfl <;> exact ⟨_, rfl⟩

theorem witness_ControlBitsOfFlagsNeedAWrite :
    Reg.flags ∉ named (.add 1 2 (.reg 15)) ∧ Reg.flags ∉ named .rfi ∧ Reg.flags ∈ named (.pop (.reg 15)) := by decide

theorem witness_OnlyStoresChangeMemory : stored State.reset (.store 1 2 (.long 0xFFFFFFFE#32)) = some (0xFFFFFFFE#32, 4) ∧
    stored State.reset (.push (.reg 1)) = some (0xFFFFFFFC#32, 4) ∧ stored State.reset (.add 1 2 (.reg 3)) = none := by
  decide

/-- From an aligned `pc`, a step that leaves it aligned, and a normal step and a sleep step that take a vector that is
not, each with what the controller acts on (PcMisalignsOnlyByAVector). -/
theorem witness_PcMisalignsOnlyByAVector :
    let s := start [0x44FFFC20] [] []
    let s' : State := { start [0x44FFFC20] [(15, 0x100)] [(0x14, 0x1002)] with interrupt := true, intMsg := 5#8 }
    let s'' : State := { s' with sleeping := true }
    (s.pc &&& 3#32 = 0#32 ∧ gives s (fun t => t.pc &&& 3#32 == 0#32) = true) ∧
    (s'.pc &&& 3#32 = 0#32 ∧ gives s' (fun t => t.pc == 0x1002#32 && t.flag .IF) = true) ∧
    (s''.pc &&& 3#32 = 0#32 ∧ gives s'' (fun t => t.pc == 0x1002#32 && t.flag .IF) = true) ∧
    s''.readWord (entryAddress s'' s''.intMsg) = 0x1002#32 := by decide

theorem witness_ControllerActsOn :
    (∃ u, ControllerActsOn { State.reset with sleeping := true } u) ∧ ∃ u, ControllerActsOn (start [0x44FFFC20] [] []) u :=
  ⟨⟨_, .inl ⟨rfl, rfl⟩⟩, ⟨_, .inr ⟨rfl, rfl, _, _, _, rfl, rfl, rfl⟩⟩⟩

end Sys2Proof.Tests
end

section
/-! The registers and FLAGS after an instruction: what each shape the meanings share writes, register by register, then
the frame of `exec` over the registers and over the bits of FLAGS (10_state.md R33 to R46). -/

namespace Sys2Proof.Machine

open Sys2Proof.Claims

/-! ### Registers after the shared shapes -/

section Shapes

variable (s : State)

/-- An ALU instruction: the result to `x[rd]`, CF and OF in FLAGS (40_p3_three_operand.md R131). -/
theorem aluStep_reg (f : Word → Word → Bool → AluOut) (rd rs : Reg) (rn : Operand) (q : Reg) :
    (s.aluStep f rd rs rn).reg q =
      if q = rd then (f (s.reg rs) (s.operand rn) (s.flag .CF)).res
      else if q = Reg.flags then
        setBit (setBit (s.reg Reg.flags) 0 (f (s.reg rs) (s.operand rn) (s.flag .CF)).cf) 1
          (f (s.reg rs) (s.operand rn) (s.flag .CF)).of
      else s.reg q := by
  simp only [State.aluStep, writeAlu_reg, addCost_reg]

/-- A multiply: `x[rd]` and Y, with CF and OF cleared (40_p3_three_operand.md R155). -/
theorem multiplyStep_reg (f : Word → Word → WideOut) (delta : Nat) (rd rs : Reg) (rn : Operand) (q : Reg) :
    (s.multiplyStep f delta rd rs rn).reg q =
      if q = Reg.y then (f (s.reg rs) (s.operand rn)).y
      else if q = rd then (f (s.reg rs) (s.operand rn)).rd
      else s.clearCarryOverflow.reg q := by
  simp only [State.multiplyStep, writeWide_reg, clearCarryOverflow_reg, addCost_reg]

/-- A division: as a multiply, but a zero divisor writes DE and neither register (R158, R159). -/
theorem divideStep_reg (f : Word → Word → WideOut) (delta : Nat) (rd rs : Reg) (rn : Operand) (q : Reg) :
    (s.divideStep f delta rd rs rn).reg q =
      if s.operand rn = 0#32 then (s.clearCarryOverflow.setFlag .DE true).reg q
      else if q = Reg.y then (f (s.reg rs) (s.operand rn)).y
      else if q = rd then (f (s.reg rs) (s.operand rn)).rd
      else s.clearCarryOverflow.reg q := by
  simp only [State.divideStep]
  split
  · simp only [setFlag_reg, clearCarryOverflow_reg, addCost_reg]
  · simp only [writeWide_reg, clearCarryOverflow_reg, addCost_reg]

@[simp] theorem loadWord_reg (rd : Reg) (a : Word) (q : Reg) :
    (s.loadWord rd a).reg q = if q = rd then s.readWord a else s.reg q := by
  simp only [State.loadWord, setReg_reg, addCost_reg]

@[simp] theorem loadHalf_reg (rd : Reg) (a : Word) (q : Reg) :
    (s.loadHalf rd a).reg q = if q = rd then (s.readHalf a).setWidth 32 else s.reg q := by
  simp only [State.loadHalf, setReg_reg, addCost_reg]

@[simp] theorem loadByte_reg (rd : Reg) (a : Word) (q : Reg) :
    (s.loadByte rd a).reg q = if q = rd then (s.readByte a).setWidth 32 else s.reg q := by
  simp only [State.loadByte, setReg_reg, addCost_reg]

@[simp] theorem storeWord_reg (rd : Reg) (a : Word) (q : Reg) : (s.storeWord rd a).reg q = s.reg q := by
  simp only [State.storeWord, State.writeWord, writeBytes_reg, addCost_reg]

@[simp] theorem storeHalf_reg (rd : Reg) (a : Word) (q : Reg) : (s.storeHalf rd a).reg q = s.reg q := by
  simp only [State.storeHalf, State.writeHalf, writeBytes_reg, addCost_reg]

@[simp] theorem storeByte_reg (rd : Reg) (a : Word) (q : Reg) : (s.storeByte rd a).reg q = s.reg q := rfl

@[simp] theorem moveStep_reg (rd : Reg) (v : Word) (q : Reg) :
    (s.moveStep rd v).reg q = if q = rd then v else s.reg q := by
  simp only [State.moveStep, setReg_reg, addCost_reg]

@[simp] theorem condStep_reg (p : Word → Word → Bool) (rd : Reg) (rn : Operand) (q : Reg) :
    (s.condStep p rd rn).reg q = s.reg q := by
  unfold State.condStep
  rcases skipUnless_cases (s.addCost wideBaseCost) (p (s.reg rd) (s.operand rn)) with ⟨_, e⟩ | ⟨_, e⟩
  · rw [e, addCost_reg]
  · rw [e, setSkipping_reg, addCost_reg, addCost_reg]

@[simp] theorem sendInterrupt_reg (msg : Byte) (q : Reg) : (s.sendInterrupt msg).2.reg q = s.reg q := by
  rcases sendInterrupt_cases s msg with ⟨_, e⟩ | ⟨_, e⟩
  · rw [e]
  · rw [e, setIntMsg_reg, setInterrupt_reg]

/-- RFI pops `pc` and `x[0]` and clears IF (43_np_zero_operand.md R273). -/
theorem returnFromInterrupt_reg (q : Reg) : s.returnFromInterrupt.reg q =
    if q = Reg.flags then setBit (s.reg Reg.flags) 3 false
    else if q = 0 then s.readWord (s.reg Reg.sp + 4#32)
    else if q = Reg.sp then s.reg Reg.sp + 8#32
    else s.reg q := by
  by_cases hsp : q = Reg.sp <;> simp [State.returnFromInterrupt, Flag.bit, BitVec.add_assoc, hsp]

@[simp] theorem push_flag (v : Word) (f : Flag) : (s.push v).flag f = s.flag f := by
  simp only [State.flag, push_reg, reg_flags_ne_sp, if_false]

@[simp] theorem resetCore_reg (r : Reg) : s.resetCore.reg r = 0#32 := reset_reg r

end Shapes

/-! ### The registers an instruction leaves alone -/

/-- A register that an instruction neither names as a destination nor writes by its own rule keeps its value. -/
theorem exec_reg {i : Instr} {s t : State} {q : Reg} (h : exec i s = .next t) (hn : q ∉ named i)
    (hi : q ∉ implied i) : t.reg q = s.reg q := by
  cases i with
  | and rd rs rn | or rd rs rn | xor rd rs rn | bitc rd rs rn | add rd rs rn | addc rd rs rn | sub rd rs rn
  | subb rd rs rn | rsb rd rs rn | rsbb rd rs rn | lls rd rs rn | rls rd rs rn | ars rd rs rn | rotl rd rs rn
  | rotr rd rs rn =>
    cases h
    rw [aluStep_reg, if_neg (List.ne_of_not_mem_cons hn), if_neg (List.ne_of_not_mem_cons hi)]
  | mul rd rs rn | smul rd rs rn =>
    cases h
    simp_all [named, implied, multiplyStep_reg]
  | div rd rs rn | sdiv rd rs rn =>
    cases h
    simp_all [named, implied, divideStep_reg]
  | load rd rs rn | loadw rd rs rn | loadb rd rs rn | load2 rd rn | loadw2 rd rn | loadb2 rd rn
  | mov rd rn | sigxb rd rn | sigxw rd rn | not rd rn =>
    cases h
    simp_all [named]
  | store rd rs rn | storew rd rs rn | storeb rd rs rn | store2 rd rn | storew2 rd rn | storeb2 rd rn
  | ifeq rd rn | ifneq rd rn | ifl rd rn | ifsl rd rn | ifle rd rn | ifsle rd rn | ifbits rd rn | ifclear rd rn
  | int rn =>
    cases h
    simp
  | swp rd rn | xchgb rn | xchgw rn | getpc rn | pop rn =>
    cases rn with
    | reg r =>
      cases h
      simp_all [named, implied, State.onRegister]
    | lit v | long v =>
      cases h
      rfl
  | push rn | call rn | rcall rn | call2 rd rn | ret =>
    cases h
    simp_all [implied]
  | rfi =>
    cases h
    simp_all [implied, returnFromInterrupt_reg]
  | jmp rn | rjmp rn | jmp2 rd rn | sleep | unknownP3 op rd rs rn | unknownP2 op rd rn | unknownP1 op rn
  | unknownNP op =>
    cases h
    rfl

/-! ### The bits of FLAGS an instruction leaves alone -/

section FlagBits

variable {s t : State}

theorem flagBitsSameBut_of_reg_eq (bs : List Nat) (h : t.reg Reg.flags = s.reg Reg.flags) :
    FlagBitsSameBut bs s t := fun b _ => by rw [h]

theorem flagBitsSameBut_mono {bs cs : List Nat} (h : FlagBitsSameBut bs s t) (hsub : bs ⊆ cs) :
    FlagBitsSameBut cs s t := fun b hb => h b fun hmem => hb (hsub hmem)

theorem aluStep_flagBits (f : Word → Word → Bool → AluOut) {rd : Reg} (rs : Reg) (rn : Operand)
    (h : Reg.flags ≠ rd) : FlagBitsSameBut [0, 1] s (s.aluStep f rd rs rn) := by
  intro b hb
  simp_all [aluStep_reg]

theorem clearCarryOverflow_flagBits : FlagBitsSameBut [0, 1] s s.clearCarryOverflow := by
  intro b hb
  simp_all

theorem multiplyStep_flagBits (f : Word → Word → WideOut) (delta : Nat) {rd : Reg} (rs : Reg) (rn : Operand)
    (h : Reg.flags ≠ rd) : FlagBitsSameBut [0, 1] s (s.multiplyStep f delta rd rs rn) := by
  intro b hb
  rw [multiplyStep_reg, if_neg reg_flags_ne_y, if_neg h]
  exact clearCarryOverflow_flagBits b hb

theorem divideStep_flagBits (f : Word → Word → WideOut) (delta : Nat) {rd : Reg} (rs : Reg) (rn : Operand)
    (h : Reg.flags ≠ rd) : FlagBitsSameBut [0, 1, 2] s (s.divideStep f delta rd rs rn) := by
  intro b hb
  rw [divideStep_reg, if_neg reg_flags_ne_y, if_neg h]
  split
  · simp_all [Flag.bit]
  · exact flagBitsSameBut_mono clearCarryOverflow_flagBits (by simp) b hb

theorem returnFromInterrupt_flagBits : FlagBitsSameBut [3] s s.returnFromInterrupt := by
  intro b hb
  simp_all [returnFromInterrupt_reg]

/-- An instruction that does not name FLAGS writes CF, OF, DE and IF at most: the ALU the first two, a division the
first three, RFI the fourth. -/
theorem exec_flagBits {i : Instr} (h : exec i s = .next t) (hn : Reg.flags ∉ named i) :
    FlagBitsSameBut [0, 1, 2, 3] s t := by
  cases i with
  | and rd rs rn | or rd rs rn | xor rd rs rn | bitc rd rs rn | add rd rs rn | addc rd rs rn | sub rd rs rn
  | subb rd rs rn | rsb rd rs rn | rsbb rd rs rn | lls rd rs rn | rls rd rs rn | ars rd rs rn | rotl rd rs rn
  | rotr rd rs rn =>
    cases h
    exact flagBitsSameBut_mono (aluStep_flagBits _ rs rn (List.ne_of_not_mem_cons hn)) (by simp)
  | mul rd rs rn | smul rd rs rn =>
    cases h
    exact flagBitsSameBut_mono (multiplyStep_flagBits _ _ rs rn (List.ne_of_not_mem_cons hn)) (by simp)
  | div rd rs rn | sdiv rd rs rn =>
    cases h
    exact flagBitsSameBut_mono (divideStep_flagBits _ _ rs rn (List.ne_of_not_mem_cons hn)) (by simp)
  | rfi =>
    cases h
    exact flagBitsSameBut_mono (s := s) (returnFromInterrupt_flagBits (s := s.addCost _)) (by simp)
  | swp rd rn | pop rn => cases rn <;> exact flagBitsSameBut_of_reg_eq _ (exec_reg h hn (by simp [implied]))
  | _ => exact flagBitsSameBut_of_reg_eq _ (exec_reg h hn (by simp [implied]))

/-- A flag whose bit stands outside the list is kept. -/
theorem flag_eq_of_flagBitsSameBut {bs : List Nat} {f : Flag} (h : FlagBitsSameBut bs s t) (hf : f.bit ∉ bs) :
    t.flag f = s.flag f := h f.bit hf

/-! ### The interrupt controller and EI -/

/-- With EI = 0 or no request pending, the controller does nothing (60_exceptions.md R325). -/
theorem interruptController_idle (h : s.flag .EI = false ∨ s.interrupt = false) : s.interruptController = s := by
  rcases interruptController_cases s with ⟨_, e⟩ | ⟨hi, he, _, _⟩ | ⟨hi, he, _, _⟩
  · exact e
  · simp [hi, he] at h
  · simp [hi, he] at h

/-- The controller writes IF and no other flag: a null vector none, an acceptance IF alone (60_exceptions.md R327). -/
theorem interruptController_flag (s : State) {f : Flag} (hf : f ≠ .IF) : s.interruptController.flag f = s.flag f := by
  rcases interruptController_cases s with ⟨_, e⟩ | ⟨_, _, _, e⟩ | ⟨_, _, _, e⟩
  · rw [e]
  · rw [e, setInterrupt_flag]
  · simp [e, setReg_flag, hf]

theorem sendInterrupt_refused (msg : Byte) (h : s.flag .EI = false) : s.sendInterrupt msg = (false, s) := by
  rcases sendInterrupt_cases s msg with ⟨_, e⟩ | ⟨he, _⟩
  · exact e
  · simp [he] at h

end FlagBits

/-! ### The statements of 10_state.md -/

/-- Settles O49: the port and the controller by their cases, an instruction by its frame over the bits of FLAGS, of
which EI is bit 8. -/
theorem enableBitGatesInterrupts : Obligations.EnableBitGatesInterrupts :=
  ⟨fun _ msg => sendInterrupt_refused msg, fun _ => interruptController_idle,
    fun _ _ _ h hn => flag_eq_of_flagBitsSameBut (exec_flagBits h hn) (by decide),
    fun s => interruptController_flag s (by decide)⟩

/-- Settles O9: `reset()` is the state after reset with the old memory, so every field is the one R59 gives. -/
theorem resetValuesAndMemoryKept : Obligations.ResetValuesAndMemoryKept := fun s =>
  ⟨resetCore_reg s, rfl, rfl, rfl, rfl, rfl, rfl, rfl, rfl, reset_reg, rfl, rfl, rfl, rfl, rfl, rfl, rfl⟩

end Sys2Proof.Machine
end

section
/-! The push: what it stores and what it leaves alone (20_memory.md R84). -/

namespace Sys2Proof.Machine

open Sys2Proof.Claims

/-- Byte `k` of a value as a number: the digit of weight 256 ^ k. -/
theorem byte_toNat (v : Word) (k : Nat) : (Word.byte v k).toNat = v.toNat / 256 ^ k % 256 := by
  rw [Word.byte, BitVec.extractLsb'_toNat, Nat.shiftRight_eq_div_pow, Nat.pow_mul]

section Push

variable (s : State) (v : Word)

/-- The bytes from the new SP up hold the value little-endian, wherever SP stands: the four addresses stay apart modulo
2^32. -/
theorem push_readByte_inside {k : Nat} (hk : k < 4) :
    (s.push v).readByte (s.reg Reg.sp - 4#32 + BitVec.ofNat 32 k) = Word.byte v k := by
  rw [push_readByte]
  match k, hk with
  | 0, _ => rw [if_pos (by bv_omega)]
  | 1, _ => rw [if_neg (by bv_omega), if_pos (by bv_omega)]
  | 2, _ => rw [if_neg (by bv_omega), if_neg (by bv_omega), if_pos (by bv_omega)]
  | 3, _ => rw [if_neg (by bv_omega), if_neg (by bv_omega), if_neg (by bv_omega), if_pos (by bv_omega)]

theorem push_bytesStored : BytesStored (s.push v) (s.reg Reg.sp - 4#32) 4 v := fun k hk => by
  rw [push_readByte_inside s v hk, byte_toNat]

/-- Each address a push writes is the new SP plus a `k` below 4, so an address that is none of these is not written. -/
theorem push_memorySameBut : MemorySameBut (s.reg Reg.sp - 4#32) 4 s (s.push v) := by
  intro x hx
  have ne_at (k : Nat) (hk : k < 4) : x ≠ s.reg Reg.sp - 4#32 + BitVec.ofNat 32 k := fun e => hx ⟨k, hk, e⟩
  have h0 := ne_at 0 (by decide)
  have h1 := ne_at 1 (by decide)
  have h2 := ne_at 2 (by decide)
  have h3 := ne_at 3 (by decide)
  rw [push_readByte, if_neg (by bv_omega), if_neg (by bv_omega), if_neg (by bv_omega), if_neg (by bv_omega)]

theorem push_regsSameBut : RegsSameBut [Reg.sp] s (s.push v) := fun r hr => by
  rw [push_reg, if_neg (List.ne_of_not_mem_cons hr)]

theorem push_controlSame : ControlSame s (s.push v) := ⟨rfl, rfl, rfl, rfl, rfl, rfl⟩

theorem push_effect : PushEffect s (s.push v) v :=
  ⟨by rw [push_reg, if_pos rfl], push_regsSameBut s v, push_bytesStored s v, push_memorySameBut s v,
    push_controlSame s v⟩

end Push

/-! ### The statements of 20_memory.md -/

/-- Settles O40: the four stored bytes address by address, and the frame over memory, registers and control. -/
theorem pushStoresBelowTheOldTop : Obligations.PushStoresBelowTheOldTop := fun s v =>
  ⟨push_effect s v, push_pc s v, push_cost s v⟩

end Sys2Proof.Machine
end

section
/-! The register operands of a word: each slot's four bits, read by arithmetic (30_encoding.md R104 to R107). -/

namespace Sys2Proof

section RegisterSlots

variable (w c : Word)

/-- The register whose number stands in the four bits of a word from bit `k` up. -/
def registerAt (k : Nat) : Reg := Fin.ofNat 16 (w.toNat / 2 ^ k)

theorem extract_four_toFin (k : Nat) : (w.extractLsb' k 4).toFin = registerAt w k := by
  apply Fin.ext
  rw [BitVec.val_toFin, BitVec.extractLsb'_toNat, Nat.shiftRight_eq_div_pow]
  rfl

theorem rdField_eq : rdField w = registerAt w 0 := extract_four_toFin w 0

theorem rsField_eq : rsField w = registerAt w 5 := extract_four_toFin w 5

/-- With L = 0 an operand slot is read through its low four bits alone; the bits above them do not count. -/
theorem decodeOperand_slot {n : Nat} (hn : 4 ≤ n) (sentinel : BitVec n) (k : Nat) (literal : Bool) :
    decodeOperand sentinel literal (w.extractLsb' k n) c =
      if literal then decodeOperand sentinel true (w.extractLsb' k n) c else .reg (registerAt w k) := by
  cases literal with
  | true => rfl
  | false =>
    have low_four : (w.extractLsb' k n).setWidth 4 = w.extractLsb' k 4 := BitVec.setWidth_extractLsb'_of_le hn
    simp only [decodeOperand, Bool.false_eq_true, if_false, low_four, extract_four_toFin]

theorem decodeWords_p3 (h : family w = .p3) :
    decodeWords w c = decodeP3 (w.extractLsb' 24 6) (registerAt w 0) (registerAt w 5)
      (if literalFlag w then decodeOperand p3Sentinel true (p3Field w) c else .reg (registerAt w 10)) := by
  simp only [decodeWords, h, rdField_eq, rsField_eq]
  rw [p3Field, decodeOperand_slot w c (by decide)]

theorem decodeWords_p2 (h : family w = .p2) :
    decodeWords w c = decodeP2 (w.extractLsb' 24 7) (registerAt w 0)
      (if literalFlag w then decodeOperand p2Sentinel true (p2Field w) c else .reg (registerAt w 5)) := by
  simp only [decodeWords, h, rdField_eq]
  rw [p2Field, decodeOperand_slot w c (by decide)]

theorem decodeWords_p1 (h : family w = .p1) :
    decodeWords w c = decodeP1 (w.extractLsb' 24 5)
      (if literalFlag w then decodeOperand p1Sentinel true (p1Field w) c else .reg (registerAt w 0)) := by
  simp only [decodeWords, h]
  rw [p1Field, decodeOperand_slot w c (by decide)]

end RegisterSlots

/-! ### The statements of 30_encoding.md -/

/-- Settles O4: one equation of the decoder per family, each from what an operand slot decodes to. -/
theorem registerOperandsStandInTheirFields : Obligations.RegisterOperandsStandInTheirFields := fun w c =>
  ⟨decodeWords_p3 w c, decodeWords_p2 w c, decodeWords_p1 w c⟩

end Sys2Proof
end

section
/-! The sleep step (44_step_cycle.md R296). -/

namespace Sys2Proof.Machine

/-- What a sleep step does before the controller runs is to charge its one cycle. -/
theorem sleepStep_eq (s : State) : s.sleepStep = { s with cost := 1 }.interruptController := rfl

/-! ### The statements of 44_step_cycle.md -/

/-- Settles O15: `sleeping` is tested first, so the step is the sleep step, which is the controller at cost 1. -/
theorem sleepStepRunsControllerOnly : Obligations.SleepStepRunsControllerOnly := fun s hs => by
  rw [step_asleep hs, sleepStep_eq]

end Sys2Proof.Machine
end

section
/-! Taking an interrupt: the vector table's entry, and the null vector (60_exceptions.md R326). -/

namespace Sys2Proof.Machine

open Sys2Proof.Claims

/-- A message is one byte, so its shift by two inside a word loses no bit and the offset is 4 * message exactly. -/
theorem vectorAddress_eq_entryAddress (s : State) (msg : Byte) : s.vectorAddress msg = entryAddress s msg := by
  have offset : msg.setWidth 32 <<< 2 = BitVec.ofNat 32 (4 * msg.toNat) := by bv_omega
  rw [State.vectorAddress, entryAddress, offset]

/-- With a request the controller may take, the vector alone decides: a null one leaves only the dropped request. -/
theorem interruptController_nullVector {s : State} (hi : s.interrupt = true) (he : s.flag .EI = true)
    (hv : s.readWord (s.vectorAddress s.intMsg) = 0#32) : s.interruptController = s.setInterrupt false := by
  rcases interruptController_cases s with ⟨idle, _⟩ | ⟨_, _, _, dropped⟩ | ⟨_, _, notNull, _⟩
  · simp [hi, he] at idle
  · exact dropped
  · exact absurd hv notNull

/-! ### The statements of 60_exceptions.md -/

/-- Settles O50: the entry the controller reads is the one at IA + 4 * message, and a null word there leaves it only
the request to drop. -/
theorem nullVectorDropsTheRequest : Obligations.NullVectorDropsTheRequest := fun s hi he hv =>
  interruptController_nullVector hi he (by rw [vectorAddress_eq_entryAddress, hv])

end Sys2Proof.Machine
end

section
/-! Decoding and encoding: the encoder's words decode back, every word decodes to a well-formed instruction, and which
bits count (30_encoding.md). -/

namespace Sys2Proof

open Sys2Proof.Claims

/-! ### Decoding what was encoded (R101 to R115) -/

section RoundTrip

variable (rd rs : Reg) (rn : Operand) (rest : List Byte)

/-- The bytes of a word and of its operand's continuation decode to what the two words stand for. -/
theorem decode_withContinuation (w : Word) (h : hasContinuation w = decide (rn.continuation ≠ [])) :
    decode ((w :: rn.continuation).flatMap bytesOfWord ++ rest) =
      .ok (decodeWords w (rn.continuation.headD 0#32), rest) := by
  cases rn with
  | reg r | lit v =>
    have no_more : hasContinuation w = false := h
    simpa [Operand.continuation, no_more] using Machine.decode_bytes w 0#32 rest
  | long v =>
    have one_more : hasContinuation w = true := h
    simpa [Operand.continuation, one_more] using Machine.decode_bytes w v rest

/-- An operand's field and the continuation word it asks for decode to the operand. -/
theorem decodeOperand_continuation {n : Nat} (hn : 4 ≤ n) (sentinel : BitVec n) (h : rn.fits sentinel = true) :
    decodeOperand sentinel rn.literal (rn.field sentinel) (rn.continuation.headD 0#32) = rn :=
  decodeOperand_field hn sentinel rn h _ fun _ e => by rw [e]; rfl

theorem decode_encodeP3 (op : BitVec 6) (h : rn.fits p3Sentinel = true) :
    decode ((encodeP3 op rd rs rn).flatMap bytesOfWord ++ rest) = .ok (decodeP3 op rd rs rn, rest) := by
  rw [encodeP3, decode_withContinuation rn rest _ (p3Word_hasContinuation op rd rs rn h)]
  simp only [decodeWords, p3Word_family, p3Word_op, p3Word_rd, p3Word_rs, p3Word_literal, p3Word_field,
    decodeOperand_continuation rn (by decide) p3Sentinel h]

theorem decode_encodeP2 (op : BitVec 7) (h : rn.fits p2Sentinel = true) :
    decode ((encodeP2 op rd rn).flatMap bytesOfWord ++ rest) = .ok (decodeP2 op rd rn, rest) := by
  rw [encodeP2, decode_withContinuation rn rest _ (p2Word_hasContinuation op rd rn h)]
  simp only [decodeWords, p2Word_family, p2Word_op, p2Word_rd, p2Word_literal, p2Word_field,
    decodeOperand_continuation rn (by decide) p2Sentinel h]

theorem decode_encodeP1 (op : BitVec 5) (h : rn.fits p1Sentinel = true) :
    decode ((encodeP1 op rn).flatMap bytesOfWord ++ rest) = .ok (decodeP1 op rn, rest) := by
  rw [encodeP1, decode_withContinuation rn rest _ (p1Word_hasContinuation op rn h)]
  simp only [decodeWords, p1Word_family, p1Word_op, p1Word_literal, p1Word_field,
    decodeOperand_continuation rn (by decide) p1Sentinel h]

theorem decode_npWord (op : BitVec 28) :
    decode ([npWord op].flatMap bytesOfWord ++ rest) = .ok (decodeNP op, rest) := by
  have h := Machine.decode_bytes (npWord op) 0#32 rest
  simpa [decodeWords] using h

/-- Decode gives back every well-formed instruction: its family's word holds its fields, and the opcode table maps its
opcode back to it. -/
theorem decode_encodeBytes (i : Instr) (h : i.wf = true) : decode (encodeBytes i ++ rest) = .ok (i, rest) := by
  cases i with
  | and rd rs rn | or rd rs rn | xor rd rs rn | bitc rd rs rn | add rd rs rn | addc rd rs rn | sub rd rs rn
  | subb rd rs rn | rsb rd rs rn | rsbb rd rs rn | lls rd rs rn | rls rd rs rn | ars rd rs rn | rotl rd rs rn
  | rotr rd rs rn | mul rd rs rn | smul rd rs rn | div rd rs rn | sdiv rd rs rn | load rd rs rn | loadw rd rs rn
  | loadb rd rs rn | store rd rs rn | storew rd rs rn | storeb rd rs rn =>
    exact decode_encodeP3 rd rs rn rest _ h
  | mov rd rn | swp rd rn | sigxb rd rn | sigxw rd rn | not rd rn | load2 rd rn | loadw2 rd rn | loadb2 rd rn
  | store2 rd rn | storew2 rd rn | storeb2 rd rn | jmp2 rd rn | call2 rd rn | ifeq rd rn | ifneq rd rn | ifl rd rn
  | ifsl rd rn | ifle rd rn | ifsle rd rn | ifbits rd rn | ifclear rd rn =>
    exact decode_encodeP2 rd rn rest _ h
  | xchgb rn | xchgw rn | getpc rn | pop rn | push rn | jmp rn | call rn | rjmp rn | rcall rn | int rn =>
    exact decode_encodeP1 rn rest _ h
  | sleep | ret | rfi => exact decode_npWord rest _
  | unknownP3 op rd rs rn =>
    obtain ⟨hop, hrn⟩ := Bool.and_eq_true_iff.1 h
    have round_trip := decode_encodeP3 rd rs rn rest op hrn
    rwa [decodeP3_unknown hop] at round_trip
  | unknownP2 op rd rn =>
    obtain ⟨hop, hrn⟩ := Bool.and_eq_true_iff.1 h
    have round_trip := decode_encodeP2 rd rn rest op hrn
    rwa [decodeP2_unknown hop] at round_trip
  | unknownP1 op rn =>
    obtain ⟨hop, hrn⟩ := Bool.and_eq_true_iff.1 h
    have round_trip := decode_encodeP1 rn rest op hrn
    rwa [decodeP1_unknown hop] at round_trip
  | unknownNP op =>
    have round_trip := decode_npWord rest op
    rwa [decodeNP_unknown h] at round_trip

end RoundTrip

/-! ### Every word decodes (R121) -/

theorem decodeWords_wf (w c : Word) : (decodeWords w c).wf = true := by
  unfold decodeWords
  cases family w with
  | p3 => rw [decodeP3_wf]; exact decodeOperand_fits (by decide) _ _ _ _
  | p2 => rw [decodeP2_wf]; exact decodeOperand_fits (by decide) _ _ _ _
  | p1 => rw [decodeP1_wf]; exact decodeOperand_fits (by decide) _ _ _ _
  | np => exact decodeNP_wf _

/-- A literal field that is not the escape is its two's complement value; the escape is the continuation word (R110 to
R113). -/
theorem decodeOperand_literal {n : Nat} (sentinel field : BitVec n) (c : Word) :
    decodeOperand sentinel true field c =
      if field.toNat = sentinel.toNat then .long c else .lit (BitVec.ofInt 32 field.toInt) := by
  simp only [decodeOperand, if_true, BitVec.toNat_inj]
  rfl

/-! ### Bits that do not count (R104 to R107, R109) -/

section IgnoredBits

variable {w m k : Word}

/-- A change inside a mask leaves every field outside the mask as it was. -/
theorem extract_xor_of_masked (h : m &&& ~~~k = 0#32) {a n : Nat} (hk : k.extractLsb' a n = 0#n) :
    (w ^^^ m).extractLsb' a n = w.extractLsb' a n := by
  apply BitVec.eq_of_getLsbD_eq
  intro i hi
  have not_masked : k.getLsbD (a + i) = false := by simpa [hi] using congrArg (·.getLsbD i) hk
  have not_changed : m.getLsbD (a + i) = false := by
    by_cases hlt : a + i < 32
    · have both := congrArg (·.getLsbD (a + i)) h
      simp only [BitVec.getLsbD_and, BitVec.getLsbD_not, not_masked] at both
      simpa [hlt] using both
    · exact BitVec.getLsbD_of_ge _ _ (Nat.le_of_not_lt hlt)
  simp [not_changed]

theorem bit_xor_of_masked (h : m &&& ~~~k = 0#32) {a : Nat} (hk : k.extractLsb' a 1 = 0#1) :
    (w ^^^ m).getLsbD a = w.getLsbD a := by
  simpa using congrArg (·.getLsbD 0) (extract_xor_of_masked (w := w) h hk)

theorem registerAt_xor_of_masked (h : m &&& ~~~k = 0#32) {a : Nat} (hk : k.extractLsb' a 4 = 0#4) :
    registerAt (w ^^^ m) a = registerAt w a := by
  rw [← extract_four_toFin, ← extract_four_toFin, extract_xor_of_masked h hk]

/-- A mask that spares bits 31 to 29 leaves the family as it was. -/
theorem family_xor_of_masked (h : m &&& ~~~k = 0#32) (hk : k.extractLsb' 29 3 = 0#3) :
    family (w ^^^ m) = family w := by
  have top (i : Nat) (hi : i < 3) : (w ^^^ m).getLsbD (29 + i) = w.getLsbD (29 + i) := by
    simpa [hi] using congrArg (·.getLsbD i) (extract_xor_of_masked (w := w) h hk)
  simp only [family, top 0 (by decide), top 1 (by decide), top 2 (by decide)]

theorem decodeWords_xor_ignored (c : Word) (h : m &&& ~~~ignoredBits w = 0#32) :
    decodeWords (w ^^^ m) c = decodeWords w c := by
  cases hf : family w <;> cases hl : literalFlag w <;> simp only [ignoredBits, hf, hl] at h <;>
    have hf' := (family_xor_of_masked (w := w) h (by decide)).trans hf
  case np.false | np.true =>
    simp (disch := decide) only [decodeWords, hf, hf', extract_xor_of_masked h]
  all_goals have hl' : literalFlag (w ^^^ m) = _ := (bit_xor_of_masked h (by decide)).trans hl
  case p3.false | p3.true =>
    rw [decodeWords_p3 _ c hf', decodeWords_p3 _ c hf, hl, hl']
    simp (disch := decide) only [p3Field, extract_xor_of_masked h, registerAt_xor_of_masked h, if_true,
      Bool.false_eq_true, if_false]
  case p2.false | p2.true =>
    rw [decodeWords_p2 _ c hf', decodeWords_p2 _ c hf, hl, hl']
    simp (disch := decide) only [p2Field, extract_xor_of_masked h, registerAt_xor_of_masked h, if_true,
      Bool.false_eq_true, if_false]
  case p1.false | p1.true =>
    rw [decodeWords_p1 _ c hf', decodeWords_p1 _ c hf, hl, hl']
    simp (disch := decide) only [p1Field, extract_xor_of_masked h, registerAt_xor_of_masked h, if_true,
      Bool.false_eq_true, if_false]

end IgnoredBits

/-! ### The chain-skip set (R123) -/

/-- The P2 table's conditional skips stand at opcodes 0x20 to 0x27, top bytes 0xA0 to 0xA7 (R118). -/
theorem isIfxx_decodeP2 (op : BitVec 7) (rd : Reg) (rn : Operand) :
    IsIfxx (decodeP2 op rd rn) ↔ 0x20 ≤ op.toNat ∧ op.toNat ≤ 0x27 := by
  cases h : unknownP2Op op
  · simp only [unknownP2Op, decide_eq_false_iff_not] at h
    unfold decodeP2
    generalize op.toNat = n at h
    obtain h | ⟨h1, h2⟩ : n < 0x0D ∨ 0x20 ≤ n ∧ n < 0x28 := by omega
    · interval_cases n <;> simp [IsIfxx]
    · interval_cases n <;> simp [IsIfxx]
  · have named : ¬ (0x20 ≤ op.toNat ∧ op.toNat ≤ 0x27) := by
      simp only [unknownP2Op, decide_eq_true_eq] at h
      omega
    simp [decodeP2_unknown h, IsIfxx, named]

theorem not_isIfxx_decodeP3 (op : BitVec 6) (rd rs : Reg) (rn : Operand) : ¬ IsIfxx (decodeP3 op rd rs rn) := by
  unfold decodeP3
  split <;> simp [IsIfxx]

theorem not_isIfxx_decodeP1 (op : BitVec 5) (rn : Operand) : ¬ IsIfxx (decodeP1 op rn) := by
  unfold decodeP1
  split <;> simp [IsIfxx]

theorem not_isIfxx_decodeNP (op : BitVec 28) : ¬ IsIfxx (decodeNP op) := by
  unfold decodeNP
  split <;> simp [IsIfxx]

/-- The top byte is bit 31, which selects the P2 family, over the P2 opcode. -/
theorem topByte_toNat (w : Word) :
    (w.extractLsb' 24 8).toNat = 128 * (w.getLsbD 31).toNat + (w.extractLsb' 24 7).toNat := by
  have top : (w.getLsbD 31).toNat = w.toNat / 2 ^ 31 % 2 := Nat.toNat_testBit _ _
  have hw := w.isLt
  simp only [top, BitVec.extractLsb'_toNat, Nat.shiftRight_eq_div_pow]
  omega

theorem inChainSkipSet_iff_isIfxx (w c : Word) : inChainSkipSet w = true ↔ IsIfxx (decodeWords w c) := by
  simp only [inChainSkipSet, decide_eq_true_eq, topByte_toNat, decodeWords, family]
  have hop := (w.extractLsb' 24 7).isLt
  cases w.getLsbD 31 with
  | true =>
    simp only [if_true, isIfxx_decodeP2, Bool.toNat_true]
    omega
  | false =>
    refine iff_of_false (by rw [Bool.toNat_false]; omega) ?_
    cases w.getLsbD 30 <;> cases w.getLsbD 29
    · exact not_isIfxx_decodeNP _
    · exact not_isIfxx_decodeP1 _ _
    · exact not_isIfxx_decodeP3 _ _ _ _
    · exact not_isIfxx_decodeP3 _ _ _ _

/-! ### The statements of 30_encoding.md -/

/-- Settles O1: the first word alone holds the family, the opcode and every operand field, and each opcode table gives
back the opcode the encoder wrote. -/
theorem decodeOfEncodeIsIdentity : Obligations.DecodeOfEncodeIsIdentity := fun i rest h =>
  decode_encodeBytes rest i h

/-- Settles O2: the decoder is total, and every row of its tables with an operand cut from a word is well-formed. -/
theorem everyWordDecodesWellFormed : Obligations.EveryWordDecodesWellFormed := fun w c rest =>
  ⟨_, decodeWords_wf w _, Machine.decode_bytes w c rest⟩

/-- Settles O3: every field that decoding reads stands outside the mask of its family. -/
theorem ignoredBitsChangeNothing : Obligations.IgnoredBitsChangeNothing := fun _ c _ h =>
  decodeWords_xor_ignored c h

/-- Settles O5: each word evaluated by the decoder. -/
theorem workedEncodingsDecode : Obligations.WorkedEncodingsDecode :=
  ⟨rfl, rfl, rfl, rfl, rfl, rfl, rfl, rfl, rfl⟩

/-- Settles O6: one law for a field of any width, at the three widths. -/
theorem literalFieldsSignExtend : Obligations.LiteralFieldsSignExtend :=
  ⟨decodeOperand_literal p3Sentinel, decodeOperand_literal p2Sentinel, decodeOperand_literal p1Sentinel⟩

/-- Settles O7: the eight opcodes are a range of the P2 table, and bit 31 of the top byte tells P2 words. -/
theorem chainSkipSetIsTheConditionals : Obligations.ChainSkipSetIsTheConditionals := inChainSkipSet_iff_isIfxx

/-- Settles O8: by the family of the instruction, since the length test reads no opcode. -/
theorem firstWordTellsLength : Obligations.FirstWordTellsLength := by
  intro i h
  cases i with
  | and rd rs rn | or rd rs rn | xor rd rs rn | bitc rd rs rn | add rd rs rn | addc rd rs rn | sub rd rs rn
  | subb rd rs rn | rsb rd rs rn | rsbb rd rs rn | lls rd rs rn | rls rd rs rn | ars rd rs rn | rotl rd rs rn
  | rotr rd rs rn | mul rd rs rn | smul rd rs rn | div rd rs rn | sdiv rd rs rn | load rd rs rn | loadw rd rs rn
  | loadb rd rs rn | store rd rs rn | storew rd rs rn | storeb rd rs rn =>
    exact Laws.LengthFromFirstWord.of_p3 _ rd rs rn h
  | mov rd rn | swp rd rn | sigxb rd rn | sigxw rd rn | not rd rn | load2 rd rn | loadw2 rd rn | loadb2 rd rn
  | store2 rd rn | storew2 rd rn | storeb2 rd rn | jmp2 rd rn | call2 rd rn | ifeq rd rn | ifneq rd rn | ifl rd rn
  | ifsl rd rn | ifle rd rn | ifsle rd rn | ifbits rd rn | ifclear rd rn =>
    exact Laws.LengthFromFirstWord.of_p2 _ rd rn h
  | xchgb rn | xchgw rn | getpc rn | pop rn | push rn | jmp rn | call rn | rjmp rn | rcall rn | int rn =>
    exact Laws.LengthFromFirstWord.of_p1 _ rn h
  | sleep | ret | rfi => exact Laws.LengthFromFirstWord.of_np _
  | unknownP3 op rd rs rn => exact Laws.LengthFromFirstWord.unknownP3 op rd rs rn h
  | unknownP2 op rd rn => exact Laws.LengthFromFirstWord.unknownP2 op rd rn h
  | unknownP1 op rn => exact Laws.LengthFromFirstWord.unknownP1 op rn h
  | unknownNP op => exact Laws.LengthFromFirstWord.unknownNP op h

end Sys2Proof
end

section
/-! What an instruction can do, said once over `exec`, and the rules about every instruction that follow from it
(10_state.md, 20_memory.md). -/

namespace Sys2Proof.Machine

open Sys2Proof.Claims

/-! ### Ten kinds of effect -/

/-- Nothing but registers and the cycle count differs, and the latter by `k`. -/
structure RegistersOnly (k : Nat) (s t : State) : Prop where
  pc : t.pc = s.pc
  mem : t.mem = s.mem
  control : ControlSame s t
  cost : t.cost = s.cost + k

theorem memorySame_of_mem_eq {s t : State} (h : t.mem = s.mem) : MemorySame s t := fun x => by
  simp only [State.readByte, h]

theorem RegistersOnly.onlyRegisters {k : Nat} {s t : State} (h : RegistersOnly k s t) : OnlyRegisters k s t :=
  ⟨h.pc, memorySame_of_mem_eq h.mem, h.control, h.cost⟩

/-- What an instruction does, by kind: each says where it stores, whether it is a control transfer, and which state it
answers, as far as no rule about every instruction needs the values. -/
inductive Effect (s : State) (i : Instr) (t : State) : Prop where
  | registers (k : Nat) (hst : stored s i = none) (htr : ¬ IsTransfer i) (hk : 1 ≤ k ∧ k ≤ 40)
      (h : RegistersOnly k s t)
  | store (a : Word) (bs : List Byte) (hst : stored s i = some (a, bs.length)) (htr : ¬ IsTransfer i)
      (h : t = (s.addCost 3).writeBytes a bs)
  | push (v : Word) (hst : stored s i = some (s.reg Reg.sp - 4#32, 4)) (htr : ¬ IsTransfer i)
      (h : t = (s.addCost 3).push v)
  | call (v target : Word) (hst : stored s i = some (s.reg Reg.sp - 4#32, 4)) (htr : IsTransfer i)
      (h : t = ((s.addCost 4).push v).jump target)
  | jump (target : Word) (hst : stored s i = none) (htr : IsTransfer i) (h : t = (s.addCost 3).jump target)
  | ret (hi : i = .ret) (h : t = ((s.addCost 4).setReg Reg.sp (s.reg Reg.sp + 4#32)).jump (s.readWord (s.reg Reg.sp)))
  | rfi (hi : i = .rfi) (h : t = (s.addCost 6).returnFromInterrupt)
  | conditional (p : Bool) (hst : stored s i = none) (htr : ¬ IsTransfer i) (hif : IsIfxx i)
      (h : t = (s.addCost 3).skipUnless p)
  | int (rn : Operand) (msg : Byte) (hi : i = .int rn) (h : t = ((s.addCost 6).sendInterrupt msg).2)
  | sleep (hi : i = .sleep) (h : t = (s.setCost 1).setSleeping true)

section Shapes

variable (s : State)

theorem aluStep_registersOnly (f : Word → Word → Bool → AluOut) (rd rs : Reg) (rn : Operand) :
    RegistersOnly 3 s (s.aluStep f rd rs rn) := ⟨rfl, rfl, ⟨rfl, rfl, rfl, rfl, rfl, rfl⟩, rfl⟩

theorem multiplyStep_registersOnly (f : Word → Word → WideOut) (delta : Nat) (rd rs : Reg) (rn : Operand) :
    RegistersOnly (3 + delta) s (s.multiplyStep f delta rd rs rn) := ⟨rfl, rfl, ⟨rfl, rfl, rfl, rfl, rfl, rfl⟩, rfl⟩

theorem divideStep_registersOnly (f : Word → Word → WideOut) (delta : Nat) (rd rs : Reg) (rn : Operand) :
    RegistersOnly (3 + delta) s (s.divideStep f delta rd rs rn) := by
  unfold State.divideStep
  split <;> exact ⟨rfl, rfl, ⟨rfl, rfl, rfl, rfl, rfl, rfl⟩, rfl⟩

theorem setReg_registersOnly (rd : Reg) (v : Word) : RegistersOnly 3 s ((s.addCost 3).setReg rd v) :=
  ⟨rfl, rfl, ⟨rfl, rfl, rfl, rfl, rfl, rfl⟩, rfl⟩

theorem addCost_registersOnly (k : Nat) : RegistersOnly k s (s.addCost k) :=
  ⟨rfl, rfl, ⟨rfl, rfl, rfl, rfl, rfl, rfl⟩, rfl⟩

end Shapes

/-- Everything an instruction can do. -/
theorem exec_effect {i : Instr} {s t : State} (h : exec i s = .next t) : Effect s i t := by
  cases i with
  | and rd rs rn | or rd rs rn | xor rd rs rn | bitc rd rs rn | add rd rs rn | addc rd rs rn | sub rd rs rn
  | subb rd rs rn | rsb rd rs rn | rsbb rd rs rn | lls rd rs rn | rls rd rs rn | ars rd rs rn | rotl rd rs rn
  | rotr rd rs rn =>
    cases h
    exact .registers 3 rfl (by simp [IsTransfer]) (by decide) (aluStep_registersOnly s _ rd rs rn)
  | mul rd rs rn | smul rd rs rn =>
    cases h
    exact .registers _ rfl (by simp [IsTransfer]) (by decide) (multiplyStep_registersOnly s _ _ rd rs rn)
  | div rd rs rn | sdiv rd rs rn =>
    cases h
    exact .registers _ rfl (by simp [IsTransfer]) (by decide) (divideStep_registersOnly s _ _ rd rs rn)
  | load rd rs rn | loadw rd rs rn | loadb rd rs rn | load2 rd rn | loadw2 rd rn | loadb2 rd rn
  | mov rd rn | sigxb rd rn | sigxw rd rn | not rd rn =>
    cases h
    exact .registers 3 rfl (by simp [IsTransfer]) (by decide) (setReg_registersOnly s rd _)
  | unknownP3 op rd rs rn | unknownP2 op rd rn | unknownP1 op rn | unknownNP op =>
    cases h
    exact .registers _ rfl (by simp [IsTransfer]) (by decide) (addCost_registersOnly s _)
  | swp rd rn | xchgb rn | xchgw rn | getpc rn | pop rn =>
    cases rn with
    | reg r =>
      cases h
      exact .registers 3 rfl (by simp [IsTransfer]) (by decide) ⟨rfl, rfl, ⟨rfl, rfl, rfl, rfl, rfl, rfl⟩, rfl⟩
    | lit v | long v =>
      cases h
      exact .registers 3 rfl (by simp [IsTransfer]) (by decide) (addCost_registersOnly s 3)
  | store rd rs rn | storew rd rs rn | store2 rd rn | storew2 rd rn =>
    cases h
    exact .store _ _ rfl (by simp [IsTransfer]) rfl
  | storeb rd rs rn | storeb2 rd rn =>
    cases h
    exact .store _ [_] rfl (by simp [IsTransfer]) rfl
  | push rn =>
    cases h
    exact .push _ rfl (by simp [IsTransfer]) rfl
  | call rn | rcall rn | call2 rd rn =>
    cases h
    exact .call _ _ rfl (by simp [IsTransfer]) rfl
  | jmp rn | rjmp rn | jmp2 rd rn =>
    cases h
    exact .jump _ rfl (by simp [IsTransfer]) rfl
  | ret =>
    cases h
    exact .ret rfl rfl
  | rfi =>
    cases h
    exact .rfi rfl rfl
  | ifeq rd rn | ifneq rd rn | ifl rd rn | ifsl rd rn | ifle rd rn | ifsle rd rn | ifbits rd rn | ifclear rd rn =>
    cases h
    exact .conditional _ rfl (by simp [IsTransfer]) (by simp [IsIfxx]) rfl
  | int rn =>
    cases h
    exact .int rn _ rfl rfl
  | sleep =>
    cases h
    exact .sleep rfl rfl

/-- No instruction faults, and none is without a meaning (60_exceptions.md R320). -/
theorem exec_completes (i : Instr) (s : State) : Completes (exec i s) := by
  cases i <;> exact ⟨_, rfl⟩

/-! ### Memory -/

section Memory

variable {i : Instr} {s t : State}

/-- Byte writes touch no byte but those at the addresses they go to. -/
theorem writeBytes_memorySameBut (s : State) (a : Word) (bs : List Byte) :
    MemorySameBut a bs.length s (s.writeBytes a bs) := fun x hx =>
  writeBytes_readByte_outside bs s a x fun k hk e => hx ⟨k, hk, e⟩

@[simp] theorem sendInterrupt_mem (s : State) (msg : Byte) : (s.sendInterrupt msg).2.mem = s.mem := by
  rcases sendInterrupt_cases s msg with ⟨_, e⟩ | ⟨_, e⟩
  · rw [e]
  · rw [e]; rfl

@[simp] theorem skipUnless_mem (s : State) (p : Bool) : (s.skipUnless p).mem = s.mem := by
  cases p <;> rfl

/-- An instruction that stores nothing leaves memory as it was. -/
theorem exec_mem_of_not_stored (h : exec i s = .next t) (hst : stored s i = none) : t.mem = s.mem := by
  cases exec_effect h with
  | registers k _ _ _ hr => exact hr.mem
  | store a bs hs _ _ => simp [hst] at hs
  | push v hs _ _ => simp [hst] at hs
  | call v target hs _ _ => simp [hst] at hs
  | jump target _ _ e => rw [e]; rfl
  | ret _ e => rw [e]; rfl
  | rfi _ e => rw [e]; rfl
  | conditional p _ _ _ e => rw [e, skipUnless_mem]; rfl
  | int rn msg _ e => rw [e, sendInterrupt_mem]; rfl
  | sleep _ e => rw [e]; rfl

/-- An instruction that stores leaves every other byte of memory as it was. -/
theorem exec_memorySameBut {a : Word} {n : Nat} (h : exec i s = .next t) (hst : stored s i = some (a, n)) :
    MemorySameBut a n s t := by
  cases exec_effect h with
  | store b bs hs _ e =>
    cases hst.symm.trans hs
    rw [e]
    exact writeBytes_memorySameBut (s.addCost 3) a bs
  | push v hs _ e =>
    cases hst.symm.trans hs
    rw [e]
    exact push_memorySameBut (s.addCost 3) v
  | call v target hs _ e =>
    cases hst.symm.trans hs
    rw [e]
    exact push_memorySameBut (s.addCost 4) v
  | registers k hs _ _ _ | jump target hs _ _ | conditional p hs _ _ _ => simp [hst] at hs
  | ret hi _ | rfi hi _ | int rn msg hi _ | sleep hi _ => simp [hi, stored] at hst

/-- Every instruction keeps memory's canonical form. -/
theorem exec_wf (h : exec i s = .next t) (hwf : s.mem.wf) : t.mem.wf := by
  cases hst : stored s i with
  | none => rwa [exec_mem_of_not_stored h hst]
  | some an =>
    cases exec_effect h with
    | store a bs _ _ e => rw [e]; exact writeBytes_wf bs (s := s.addCost 3) hwf a
    | push v _ _ e => rw [e]; exact push_wf (s := s.addCost 3) hwf v
    | call v target _ _ e => rw [e]; exact push_wf (s := s.addCost 4) hwf v
    | registers k hs _ _ _ | jump target hs _ _ | conditional p hs _ _ _ => simp [hst] at hs
    | ret hi _ | rfi hi _ | int rn msg hi _ | sleep hi _ => simp [hi, stored] at hst

end Memory

/-! ### Control state, `pc` and the cycle count -/

section Control

variable {i : Instr} {s t : State}

@[simp] theorem sendInterrupt_pc (s : State) (msg : Byte) : (s.sendInterrupt msg).2.pc = s.pc := by
  rcases sendInterrupt_cases s msg with ⟨_, e⟩ | ⟨_, e⟩
  · rw [e]
  · rw [e]; rfl

@[simp] theorem sendInterrupt_cost (s : State) (msg : Byte) : (s.sendInterrupt msg).2.cost = s.cost := by
  rcases sendInterrupt_cases s msg with ⟨_, e⟩ | ⟨_, e⟩
  · rw [e]
  · rw [e]; rfl

@[simp] theorem skipUnless_pc (s : State) (p : Bool) : (s.skipUnless p).pc = s.pc := by
  cases p <;> rfl

/-- Each mode is written by its own instructions and no other. -/
theorem exec_modes (h : exec i s = .next t) :
    (t.sleeping = s.sleeping ∨ i = .sleep) ∧ (t.skipping = s.skipping ∨ IsIfxx i) ∧
    (t.intMsg = s.intMsg ∨ ∃ rn, i = .int rn) ∧ (t.interrupt = s.interrupt ∨ (∃ rn, i = .int rn) ∨ i = .rfi) ∧
    t.stepMode = s.stepMode ∧ t.waitCycles = s.waitCycles := by
  cases exec_effect h with
  | registers k _ _ _ hr =>
    obtain ⟨hwait, hmsg, hint, hstep, hskip, hsleep⟩ := hr.control
    exact ⟨.inl hsleep, .inl hskip, .inl hmsg, .inl hint, hstep, hwait⟩
  | store a bs _ _ e => simp [e]
  | push v _ _ e | call v target _ _ e | jump target _ _ e | ret _ e =>
    rw [e]
    exact ⟨.inl rfl, .inl rfl, .inl rfl, .inl rfl, rfl, rfl⟩
  | rfi hi e =>
    rw [e]
    exact ⟨.inl rfl, .inl rfl, .inl rfl, .inr (.inr hi), rfl, rfl⟩
  | conditional p _ _ hif e => rw [e]; cases p <;> exact ⟨.inl rfl, .inr hif, .inl rfl, .inl rfl, rfl, rfl⟩
  | int rn msg hi e =>
    rcases sendInterrupt_cases (s.addCost 6) msg with ⟨_, sent⟩ | ⟨_, sent⟩ <;> rw [e, sent] <;>
      exact ⟨.inl rfl, .inl rfl, .inr ⟨rn, hi⟩, .inr (.inl ⟨rn, hi⟩), rfl, rfl⟩
  | sleep hi e =>
    rw [e]
    exact ⟨.inr hi, .inl rfl, .inl rfl, .inl rfl, rfl, rfl⟩

/-- Only a control transfer writes `pc`, and the target is aligned down (41_p2_two_operand.md R199). -/
theorem exec_pc (h : exec i s = .next t) : (¬ IsTransfer i ∧ t.pc = s.pc) ∨ (IsTransfer i ∧ t.pcAligned) := by
  cases exec_effect h with
  | registers k _ htr _ hr => exact .inl ⟨htr, hr.pc⟩
  | store a bs _ htr e => exact .inl ⟨htr, by rw [e, writeBytes_pc]; rfl⟩
  | push v _ htr e => exact .inl ⟨htr, by rw [e]; rfl⟩
  | call v target _ htr e => exact .inr ⟨htr, by rw [e]; exact alignTarget_aligned _⟩
  | jump target _ htr e => exact .inr ⟨htr, by rw [e]; exact alignTarget_aligned _⟩
  | ret hi e => exact .inr ⟨.inr (.inr (.inl hi)), by rw [e]; exact alignTarget_aligned _⟩
  | rfi hi e => exact .inr ⟨.inr (.inr (.inr hi)), by rw [e]; exact alignTarget_aligned _⟩
  | conditional p _ htr _ e => exact .inl ⟨htr, by rw [e, skipUnless_pc]; rfl⟩
  | int rn msg hi e => exact .inl ⟨by simp [hi, IsTransfer], by rw [e, sendInterrupt_pc]; rfl⟩
  | sleep hi e => exact .inl ⟨by simp [hi, IsTransfer], by rw [e]; rfl⟩

/-- SLEEP replaces the step's count by 1; every other instruction adds from 1 cycle to the 40 of SDIV (R298). -/
theorem exec_cost (h : exec i s = .next t) :
    t.cost = 1 ∨ (s.cost + 1 ≤ t.cost ∧ t.cost ≤ s.cost + 40) := by
  cases exec_effect h with
  | registers k _ _ hk hr => exact .inr (by rw [hr.cost]; omega)
  | store a bs _ _ e => exact .inr (by rw [e, writeBytes_cost, addCost_cost]; omega)
  | push v _ _ e => exact .inr (by rw [e, push_cost, addCost_cost]; omega)
  | call v target _ _ e => exact .inr (by rw [e, jump_cost, push_cost, addCost_cost]; omega)
  | jump target _ _ e => exact .inr (by rw [e, jump_cost, addCost_cost]; omega)
  | ret _ e => exact .inr (by rw [e, jump_cost, setReg_cost, addCost_cost]; omega)
  | rfi _ e => exact .inr (by rw [e]; exact ⟨Nat.add_le_add_left (by decide) _, Nat.add_le_add_left (by decide) _⟩)
  | conditional p _ _ _ e => exact .inr (by rw [e]; cases p <;> simp)
  | int rn msg _ e => exact .inr (by rw [e, sendInterrupt_cost, addCost_cost]; omega)
  | sleep _ e => exact .inl (by rw [e]; rfl)

end Control

/-! ### The rules about every instruction -/

/-- Settles O55: the frame of `exec` over the registers. -/
theorem onlyWrittenRegistersChange : Obligations.OnlyWrittenRegistersChange := fun _ _ _ h _ hr =>
  exec_reg h (fun hn => hr (List.mem_append_left _ hn)) fun hi => hr (List.mem_append_right _ hi)

/-- Settles O56: the frame of `exec` over the bits of FLAGS. -/
theorem controlBitsOfFlagsNeedAWrite : Obligations.ControlBitsOfFlagsNeedAWrite := fun _ _ _ => exec_flagBits

/-- Settles O57: by whether the instruction stores, and where. -/
theorem onlyStoresChangeMemory : Obligations.OnlyStoresChangeMemory := by
  intro i s t h
  cases hst : stored s i with
  | none => exact memorySame_of_mem_eq (exec_mem_of_not_stored h hst)
  | some an => exact exec_memorySameBut h hst

/-- Settles O58: by the kind of effect, only four of which write a mode. -/
theorem modesChangeOnlyByTheirInstructions : Obligations.ModesChangeOnlyByTheirInstructions := fun _ _ _ => exec_modes

/-- Settles O59: by the kind of effect; those that write `pc` all jump to an aligned target. -/
theorem transfersLeavePcAligned : Obligations.TransfersLeavePcAligned := fun _ _ _ => exec_pc

end Sys2Proof.Machine
end

section
/-! The step, the invariant, `tick` and the other events at the ports (44_step_cycle.md, 60_exceptions.md). -/

namespace Sys2Proof.Machine

open Sys2Proof.Claims

/-! ### Every step goes on (60_exceptions.md R320) -/

/-- Fetch gives the decoder a whole instruction, and every instruction has a meaning. -/
theorem step_completes (s : State) : Completes (step s) := by
  cases hs : s.sleeping with
  | true => exact ⟨_, step_asleep hs⟩
  | false =>
    cases hk : s.skipping with
    | true => exact ⟨_, step_skipping hs hk⟩
    | false =>
      obtain ⟨u, he⟩ := exec_completes _ s.afterDecode
      exact ⟨_, step_normal hs hk (decode_fetchBytes s) he⟩

theorem run_succ {M : Host.Core} {s u : M.State} (h : M.step s = .next u) (n : Nat) :
    M.run (n + 1) s = M.run n u := by
  simp only [Host.Core.run, h]

theorem run_completes (n : Nat) : ∀ s : State, ∃ t, Sys2Proof.core.run n s = .next t := by
  induction n with
  | zero => exact fun s => ⟨s, rfl⟩
  | succ n ih =>
    intro s
    obtain ⟨u, hu⟩ := step_completes s
    obtain ⟨t, ht⟩ := ih u
    exact ⟨t, (run_succ (M := Sys2Proof.core) hu n).trans ht⟩

/-! ### What the end of a step keeps -/

section EndOfStep

variable (s : State)

/-- The step-mode check as R300 writes it: a request for interrupt 0, under its three conditions. -/
theorem stepModeCheck_eq : s.stepModeCheck =
    if s.stepMode = true ∧ s.flag .IF = false then
      (if s.flag .EI = true then { s with interrupt := true, intMsg := 0#8 } else s)
    else s := by
  rcases stepModeCheck_cases s with ⟨h, e⟩ | ⟨hst, hif, hei, e⟩
  · rw [e]
    rcases h with h | h | h <;> simp [h]
  · rw [e, if_pos ⟨hst, hif⟩, if_pos hei]
    rfl

theorem sleepStep_unchanged : s.sleepStep.skipping = s.skipping ∧ s.sleepStep.stepMode = s.stepMode ∧
    s.sleepStep.waitCycles = s.waitCycles ∧ s.sleepStep.cost = 1 := by
  obtain ⟨_, hstep, hskip, hwait, hcost⟩ := interruptController_unchanged (s.setCost 1)
  exact ⟨hskip, hstep, hwait, hcost⟩

theorem endOfStep_unchanged : s.endOfStep.skipping = s.skipping ∧ s.endOfStep.stepMode = s.stepMode ∧
    s.endOfStep.waitCycles = s.waitCycles ∧ s.endOfStep.cost = s.cost := by
  obtain ⟨_, hstep, hskip, hwait, hcost⟩ := interruptController_unchanged s.stepModeCheck
  obtain ⟨_, _, hwait', hstep', hskip', _, _, hcost'⟩ := stepModeCheck_unchanged s
  exact ⟨hskip.trans hskip', hstep.trans hstep', hwait.trans hwait', hcost.trans hcost'⟩

/-- The end of a step never puts the core to sleep. -/
theorem endOfStep_sleeping (h : s.endOfStep.sleeping = true) : s.sleeping = true := by
  obtain ⟨_, _, _, _, _, hsleep, _, _⟩ := stepModeCheck_unchanged s
  rw [← hsleep]
  exact interruptController_sleeping _ h

theorem endOfStep_wf {s : State} (h : s.mem.wf) : s.endOfStep.mem.wf := by
  obtain ⟨_, _, _, _, _, _, hmem, _⟩ := stepModeCheck_unchanged s
  exact interruptController_wf (by rwa [hmem])

end EndOfStep

/-! ### The cost of a step (44_step_cycle.md R304) -/

theorem step_cost {s t : State} (h : step s = .next t) : 1 ≤ t.cost ∧ t.cost ≤ 41 := by
  rcases step_cases h with ⟨_, rfl⟩ | ⟨_, _, rfl⟩ | ⟨_, _, i, rest, u, _, he, rfl⟩
  · obtain ⟨_, _, _, hcost⟩ := sleepStep_unchanged s
    omega
  · exact ⟨Nat.le_refl 1, show 1 ≤ 41 by decide⟩
  · obtain ⟨_, _, _, hend⟩ := endOfStep_unchanged u
    have hdecode : s.afterDecode.cost ≤ 1 := by rw [afterDecode_cost]; split <;> decide
    have hexec := exec_cost he
    omega

/-! ### What only the host writes (10_state.md R50, R53) -/

theorem step_hostState {s t : State} (h : step s = .next t) :
    t.stepMode = s.stepMode ∧ t.waitCycles = s.waitCycles := by
  rcases step_cases h with ⟨_, rfl⟩ | ⟨_, _, rfl⟩ | ⟨_, _, i, rest, u, _, he, rfl⟩
  · obtain ⟨_, hstep, hwait, _⟩ := sleepStep_unchanged s
    exact ⟨hstep, hwait⟩
  · exact ⟨rfl, rfl⟩
  · obtain ⟨_, hstep, hwait, _⟩ := endOfStep_unchanged u
    obtain ⟨_, _, _, _, hstep', hwait'⟩ := exec_modes he
    exact ⟨hstep.trans hstep', hwait.trans hwait'⟩

/-! ### The invariant -/

/-- No instruction is both SLEEP and an IFxx, so none leaves the core asleep and skipping at once (R297). -/
theorem exec_oneMode {i : Instr} {s t : State} (h : exec i s = .next t) (hs : s.sleeping = false)
    (hk : s.skipping = false) : t.oneMode := by
  rintro ⟨ht, htk⟩
  obtain ⟨hsleep, hskip, _⟩ := exec_modes h
  have is_sleep : i = .sleep := hsleep.resolve_left (by simp [ht, hs])
  have is_ifxx : IsIfxx i := hskip.resolve_left (by simp [htk, hk])
  simp [is_sleep, IsIfxx] at is_ifxx

theorem step_inv {s t : State} (hinv : s.Inv) (h : step s = .next t) : t.Inv := by
  obtain ⟨hwf, hone⟩ := hinv
  rcases step_cases h with ⟨hs, rfl⟩ | ⟨hs, _, rfl⟩ | ⟨hs, hk, i, rest, u, _, he, rfl⟩
  · obtain ⟨hskip, _⟩ := sleepStep_unchanged s
    exact ⟨interruptController_wf (s := s.setCost 1) hwf, fun ⟨_, htk⟩ => hone ⟨hs, hskip ▸ htk⟩⟩
  · exact ⟨hwf, fun ⟨ht, _⟩ => Bool.false_ne_true (hs.symm.trans ht)⟩
  · obtain ⟨hskip, _⟩ := endOfStep_unchanged u
    exact ⟨endOfStep_wf (exec_wf he hwf),
      fun ⟨ht, htk⟩ => exec_oneMode he hs hk ⟨endOfStep_sleeping u ht, hskip ▸ htk⟩⟩

theorem tickOnce_inv {s t : State} (hinv : s.Inv) (h : tickOnce s = .next t) : t.Inv := by
  rcases tickOnce_cases h with ⟨_, u, hu, rfl⟩ | ⟨_, rfl⟩
  · exact (step_inv hinv hu : u.Inv)
  · exact hinv

/-- `tick` as one cycle and then the others. -/
theorem tick_succ_cases {n : Nat} {s t : State} (h : tick (n + 1) s = .next t) :
    ∃ u, tickOnce s = .next u ∧ tick n u = .next t := by
  unfold tick at h
  split at h
  · exact ⟨_, ‹_›, h⟩
  · cases h
  · cases h

theorem tick_inv (n : Nat) : ∀ {s t : State}, s.Inv → tick n s = .next t → t.Inv := by
  induction n with
  | zero => intro s t hinv h; cases h; exact hinv
  | succ n ih =>
    intro s t hinv h
    obtain ⟨u, hu, ht⟩ := tick_succ_cases h
    exact ih (tickOnce_inv hinv hu) ht

theorem onEvent_inv (e : PortEvent) {s t : State} (hinv : s.Inv) (h : s.onEvent e = .next t) : t.Inv := by
  cases e with
  | reset => cases h; exact ⟨hinv.1, by simp [State.oneMode, State.resetCore, State.reset]⟩
  | step => exact step_inv hinv h
  | tick n => exact tick_inv n hinv h
  | sendInterrupt msg =>
    cases h
    rcases sendInterrupt_cases s msg with ⟨_, e⟩ | ⟨_, e⟩ <;> rw [e] <;> exact hinv
  | setStepMode b => cases h; exact hinv
  | busWrite a b => cases h; exact ⟨writeByte_wf hinv.1 a b, hinv.2⟩

/-! ### The cycles of `tick` (R310) -/

/-- While idle cycles last, `tick` counts them down and does nothing else. -/
theorem tick_idle (n : Nat) : ∀ s : State, n ≤ s.waitCycles →
    tick n s = .next { s with waitCycles := s.waitCycles - n } := by
  induction n with
  | zero => intro s _; rfl
  | succ n ih =>
    intro s hn
    have idle : tickOnce s = .next (s.setWaitCycles (s.waitCycles - 1)) := by
      rw [tickOnce, if_neg (by omega)]
    have rest := ih (s.setWaitCycles (s.waitCycles - 1)) (by rw [setWaitCycles_waitCycles]; omega)
    simp only [tick, idle, rest, setWaitCycles_waitCycles, Nat.sub_sub, Nat.add_comm 1 n]
    rfl

/-- A step of cost `c` takes one cycle of `tick` and leaves `c - 1` idle ones. -/
theorem tick_cost {s t : State} (hw : s.waitCycles = 0) (h : step s = .next t) :
    tick t.cost s = .next { t with waitCycles := 0 } := by
  obtain ⟨k, hk⟩ := Nat.exists_eq_succ_of_ne_zero (Nat.ne_of_gt (step_cost h).1)
  have first : tickOnce s = .next (t.setWaitCycles k) := by
    simp only [tickOnce, hw, if_true, h, hk, Nat.succ_eq_add_one, Nat.add_sub_cancel]
  have rest := tick_idle k (t.setWaitCycles k) (Nat.le_refl k)
  calc tick t.cost s = tick (k + 1) s := by rw [hk]
    _ = tick k (t.setWaitCycles k) := by simp only [tick, first]
    _ = .next { t with waitCycles := 0 } := by
      rw [rest, setWaitCycles_waitCycles, Nat.sub_self]
      rfl

/-! ### A request at the port (60_exceptions.md R322) -/

/-- A request is taken when EI = 1. -/
theorem sendInterrupt_accepted {s : State} (msg : Byte) (he : s.flag .EI = true) :
    s.sendInterrupt msg = (true, (s.setInterrupt true).setIntMsg msg) := by
  rcases sendInterrupt_cases s msg with ⟨he', _⟩ | ⟨_, e⟩
  · simp [he] at he'
  · exact e

/-! ### Asleep with EI = 0 (60_exceptions.md) -/

/-- The core is where it was: what an event may change is memory, the cycle counts and `step_mode`. -/
structure CoreHeld (s t : State) : Prop where
  regs : t.regs = s.regs
  pc : t.pc = s.pc
  sleeping : t.sleeping = s.sleeping
  skipping : t.skipping = s.skipping
  interrupt : t.interrupt = s.interrupt
  intMsg : t.intMsg = s.intMsg

theorem CoreHeld.trans {s t u : State} (h : CoreHeld s t) (h' : CoreHeld t u) : CoreHeld s u :=
  ⟨h'.regs.trans h.regs, h'.pc.trans h.pc, h'.sleeping.trans h.sleeping, h'.skipping.trans h.skipping,
    h'.interrupt.trans h.interrupt, h'.intMsg.trans h.intMsg⟩

theorem CoreHeld.reg {s t : State} (h : CoreHeld s t) (r : Reg) : t.reg r = s.reg r := by
  simp only [State.reg, h.regs]

theorem CoreHeld.flag {s t : State} (h : CoreHeld s t) (f : Flag) : t.flag f = s.flag f := by
  simp only [State.flag, h.reg]

section Asleep

variable {s t : State}

/-- The controller takes nothing while EI = 0, so the step only charges its cycle. -/
theorem step_asleep_of_not_EI (hs : s.sleeping = true) (he : s.flag .EI = false) :
    step s = .next (s.setCost 1) := by
  rw [step_asleep hs, State.sleepStep, interruptController_idle (s := s.setCost 1) (.inl he)]

theorem tickOnce_asleep (hs : s.sleeping = true) (he : s.flag .EI = false) (h : tickOnce s = .next t) :
    CoreHeld s t ∧ t.mem = s.mem := by
  rcases tickOnce_cases h with ⟨_, u, hu, rfl⟩ | ⟨_, rfl⟩
  · cases (step_asleep_of_not_EI hs he).symm.trans hu
    exact ⟨⟨rfl, rfl, rfl, rfl, rfl, rfl⟩, rfl⟩
  · exact ⟨⟨rfl, rfl, rfl, rfl, rfl, rfl⟩, rfl⟩

theorem tick_asleep (n : Nat) : ∀ {s t : State}, s.sleeping = true → s.flag .EI = false → tick n s = .next t →
    CoreHeld s t ∧ t.mem = s.mem := by
  induction n with
  | zero => intro s t _ _ h; cases h; exact ⟨⟨rfl, rfl, rfl, rfl, rfl, rfl⟩, rfl⟩
  | succ n ih =>
    intro s t hs he h
    obtain ⟨u, hu, ht⟩ := tick_succ_cases h
    obtain ⟨held, hmem⟩ := tickOnce_asleep hs he hu
    obtain ⟨held', hmem'⟩ := ih (held.sleeping.trans hs) ((held.flag .EI).trans he) ht
    exact ⟨held.trans held', hmem'.trans hmem⟩

theorem onEvent_asleep {e : PortEvent} (hs : s.sleeping = true) (he : s.flag .EI = false) (hr : e ≠ .reset)
    (h : s.onEvent e = .next t) : CoreHeld s t ∧ ((∀ a b, e ≠ .busWrite a b) → t.mem = s.mem) := by
  cases e with
  | reset => exact absurd rfl hr
  | step =>
    cases (step_asleep_of_not_EI hs he).symm.trans h
    exact ⟨⟨rfl, rfl, rfl, rfl, rfl, rfl⟩, fun _ => rfl⟩
  | tick n =>
    obtain ⟨held, hmem⟩ := tick_asleep n hs he h
    exact ⟨held, fun _ => hmem⟩
  | sendInterrupt msg =>
    cases h
    rw [sendInterrupt_refused msg he]
    exact ⟨⟨rfl, rfl, rfl, rfl, rfl, rfl⟩, fun _ => rfl⟩
  | setStepMode b => cases h; exact ⟨⟨rfl, rfl, rfl, rfl, rfl, rfl⟩, fun _ => rfl⟩
  | busWrite a b => cases h; exact ⟨⟨rfl, rfl, rfl, rfl, rfl, rfl⟩, fun hb => absurd rfl (hb a b)⟩

theorem onEvents_cons_cases {e : PortEvent} {es : List PortEvent} (h : s.onEvents (e :: es) = .next t) :
    ∃ u, s.onEvent e = .next u ∧ u.onEvents es = .next t := by
  unfold State.onEvents at h
  split at h
  · exact ⟨_, ‹_›, h⟩
  · cases h
  · cases h

theorem onEvents_asleep (es : List PortEvent) : ∀ {s t : State}, s.sleeping = true → s.flag .EI = false →
    PortEvent.reset ∉ es → s.onEvents es = .next t →
    CoreHeld s t ∧ ((∀ a b, PortEvent.busWrite a b ∉ es) → t.mem = s.mem) := by
  induction es with
  | nil => intro s t _ _ _ h; cases h; exact ⟨⟨rfl, rfl, rfl, rfl, rfl, rfl⟩, fun _ => rfl⟩
  | cons e es ih =>
    intro s t hs he hr h
    obtain ⟨u, hu, ht⟩ := onEvents_cons_cases h
    obtain ⟨held, hmem⟩ := onEvent_asleep hs he (List.ne_of_not_mem_cons hr).symm hu
    obtain ⟨held', hmem'⟩ := ih (held.sleeping.trans hs) ((held.flag .EI).trans he)
      (List.not_mem_of_not_mem_cons hr) ht
    refine ⟨held.trans held', fun no_write => ?_⟩
    have later := hmem' fun a b hb => no_write a b (List.mem_cons_of_mem _ hb)
    have first := hmem fun a b hb => no_write a b (hb ▸ List.mem_cons_self)
    exact later.trans first

end Asleep

/-! ### The statements of 44_step_cycle.md -/

/-- Settles O11: the idle cycles by induction, and the step's own cycle before them. -/
theorem tickSpendsTheStepsCost : Obligations.TickSpendsTheStepsCost :=
  ⟨tick_idle, fun _ _ => tick_cost⟩

/-- Settles O12: by the three kinds of step. -/
theorem stepKeepsHostState : Obligations.StepKeepsHostState := fun _ _ => step_hostState

/-- Settles O13: the state decode leaves is the one written out, and the end of a step is the two actions. -/
theorem stepRunsDecodedInstruction : Obligations.StepRunsDecodedInstruction := fun _ _ _ _ hs hk hd he =>
  step_normal hs hk hd he

/-- Settles O14: the step-mode check by its three conditions. -/
theorem stepModeCheckRequestsZero : Obligations.StepModeCheckRequestsZero := fun s u i rest hs hk hd he => by
  rw [step_normal hs hk hd he, State.endOfStep, stepModeCheck_eq]

/-- Settles O16: the skip step, field by field. -/
theorem skipStepPassesOneInstruction : Obligations.SkipStepPassesOneInstruction := fun _ hs hk =>
  step_skipping hs hk

/-- Settles O17: a fetch always decodes, and every instruction answers a state. -/
theorem everyStepCompletes : Obligations.EveryStepCompletes := step_completes

/-- Settles O18: by induction on the number of steps. -/
theorem everyRunGoesOn : Obligations.EveryRunGoesOn := fun s n => run_completes n s

/-- Settles O19: an instruction adds at most 40 to the continuation word's cycle, and the end of a step nothing. -/
theorem stepCostBetweenOneAndFortyOne : Obligations.StepCostBetweenOneAndFortyOne := fun _ _ => step_cost

/-- Settles O20: memory is empty and both modes are clear. -/
theorem resetIsGood : Obligations.ResetIsGood :=
  ⟨⟨List.Pairwise.nil, by simp [State.reset]⟩, by simp [State.oneMode, State.reset]⟩

/-- Settles O21: each kind of step keeps memory canonical, and only SLEEP and an IFxx set a mode. -/
theorem stepKeepsGoodState : Obligations.StepKeepsGoodState := fun _ _ => step_inv

/-- Settles O22: event by event, `tick` by induction on its cycles. -/
theorem portEventsKeepGoodState : Obligations.PortEventsKeepGoodState := fun e _ _ => onEvent_inv e

/-! ### The statements of 60_exceptions.md about requests -/

/-- Settles O10: the two cases of a request. -/
theorem sendInterruptNeedsEI : Obligations.SendInterruptNeedsEI := fun _ msg =>
  ⟨sendInterrupt_refused msg, sendInterrupt_accepted msg⟩

/-- Settles O54: by induction on the events, none of which but `reset()` touches the core while EI = 0. -/
theorem sleepWithoutEIIsForever : Obligations.SleepWithoutEIIsForever := fun es s t hs he hr h => by
  obtain ⟨held, hmem⟩ := onEvents_asleep es hs he hr h
  exact ⟨held.sleeping.trans hs, held.reg, held.pc, held.skipping, held.interrupt, held.intMsg, hmem⟩

end Sys2Proof.Machine
end

section
/-! The P3 logic, arithmetic, shifts, multiplies and divisions: what the ALU computes, in arithmetic, and what the
instructions write (40_p3_three_operand.md sections 1 to 5). -/

namespace Sys2Proof.Machine

open Sys2Proof.Claims

/-! ### What an ALU instruction, a multiply and a division write -/

section Effects

variable (s : State) (rd rs : Reg) (rn : Operand)

/-- An ALU instruction's effect is what its operation gives for the operands and CF as they stand before. -/
theorem aluStep_effect {f : Word → Word → Bool → AluOut} {res : Word} {cf ovf : Bool}
    (h : f (s.reg rs) (s.operand rn) (s.flag .CF) = ⟨res, cf, ovf⟩) :
    AluEffect s (s.aluStep f rd rs rn) rd res cf ovf := by
  refine ⟨by simp [aluStep_reg, h], fun r hr => ?_, fun hrd => ⟨?_, ?_, aluStep_flagBits f rs rn (Ne.symm hrd)⟩,
    (aluStep_registersOnly s f rd rs rn).onlyRegisters⟩
  · simp_all [aluStep_reg]
  · rw [State.flag, aluStep_reg, if_neg (Ne.symm hrd), if_pos rfl, h]
    simp [Flag.bit]
  · rw [State.flag, aluStep_reg, if_neg (Ne.symm hrd), if_pos rfl, h]
    simp [Flag.bit]

/-- A multiply's effect is what its operation gives for the operands. -/
theorem multiplyStep_effect {f : Word → Word → WideOut} (delta : Nat) {lo hi : Word}
    (h : f (s.reg rs) (s.operand rn) = ⟨lo, hi⟩) :
    WideEffect (3 + delta) s (s.multiplyStep f delta rd rs rn) rd lo hi := by
  refine ⟨by simp [multiplyStep_reg, h], fun hrd => by simp [multiplyStep_reg, h, hrd], fun r hr => ?_,
    fun hrd => ⟨?_, ?_, multiplyStep_flagBits f delta rs rn (Ne.symm hrd)⟩,
    (multiplyStep_registersOnly s f delta rd rs rn).onlyRegisters⟩
  · simp_all [multiplyStep_reg]
  · simp [State.flag, multiplyStep_reg, Ne.symm hrd, Flag.bit]
  · simp [State.flag, multiplyStep_reg, Ne.symm hrd, Flag.bit]

/-- A division by a divisor that is not zero is a multiply of its operation. -/
theorem divideStep_of_ne_zero (f : Word → Word → WideOut) (delta : Nat) (h : s.operand rn ≠ 0#32) :
    s.divideStep f delta rd rs rn = s.multiplyStep f delta rd rs rn := by
  simp only [State.divideStep, if_neg h]
  rfl

/-- Such a division's effect is what its operation gives for the operands. -/
theorem divideStep_effect (f : Word → Word → WideOut) (delta : Nat) (h : s.operand rn ≠ 0#32) :
    WideEffect (3 + delta) s (s.divideStep f delta rd rs rn) rd (f (s.reg rs) (s.operand rn)).rd
      (f (s.reg rs) (s.operand rn)).y := by
  rw [divideStep_of_ne_zero s rd rs rn f delta h]
  exact multiplyStep_effect s rd rs rn delta rfl

theorem divideStep_zeroDivisor (f : Word → Word → WideOut) (delta : Nat) (h : s.operand rn = 0#32) :
    ZeroDivisorEffect (3 + delta) s (s.divideStep f delta rd rs rn) := by
  refine ⟨fun r hr => ?_, ?_, ?_, ?_, fun b hb => ?_, (divideStep_registersOnly s f delta rd rs rn).onlyRegisters⟩
  · simp_all [divideStep_reg]
  · simp [State.flag, divideStep_reg, h, Flag.bit]
  · simp [State.flag, divideStep_reg, h, Flag.bit]
  · simp [State.flag, divideStep_reg, h, Flag.bit]
  · simp_all [divideStep_reg, Flag.bit]

end Effects

/-! ### Sums and differences (R144 to R149) -/

section Sums

variable (a b : Word) (c : Bool)

theorem sign_eq_msb (v : Word) : sign v = v.msb := by
  rw [sign, BitVec.msb_eq_getLsbD_last]

theorem carry_toInt : (BitVec.ofNat 32 c.toNat).toInt = c.toNat := by
  cases c <;> rfl

/-- The exact sum has 33 bits, so its bit 32 is the carry. -/
theorem addWith_eq : addWith a b c =
    ⟨a + b + BitVec.ofNat 32 c.toNat, decide (2 ^ 32 ≤ a.toNat + b.toNat + c.toNat),
      a.msb == b.msb && b.msb != (a + b + BitVec.ofNat 32 c.toNat).msb⟩ := by
  have sum : BitVec.ofNat 32 (a.toNat + b.toNat + c.toNat) = a + b + BitVec.ofNat 32 c.toNat := by
    simp only [BitVec.ofNat_add, BitVec.ofNat_toNat, BitVec.setWidth_eq]
  have carry : (a.toNat + b.toNat + c.toNat).testBit 32 = decide (2 ^ 32 ≤ a.toNat + b.toNat + c.toNat) := by
    have ha := a.isLt
    have hb := b.isLt
    have hc := Bool.toNat_le c
    rw [Nat.testBit_eq_decide_div_mod_eq, decide_eq_decide]
    omega
  simp only [addWith, sum, carry, sign_eq_msb]

theorem addWith_false : addWith a b false =
    ⟨a + b, decide (2 ^ 32 ≤ a.toNat + b.toNat), a.msb == b.msb && b.msb != (a + b).msb⟩ := by
  simpa using addWith_eq a b false

theorem subWith_eq : subWith a b c =
    ⟨a - b - BitVec.ofNat 32 c.toNat, decide (a.toNat < b.toNat + c.toNat),
      a.msb != b.msb && b.msb == (a - b - BitVec.ofNat 32 c.toNat).msb⟩ := by
  have difference : BitVec.ofInt 32 ((a.toNat : Int) - ((b.toNat + c.toNat : Nat) : Int)) =
      a - b - BitVec.ofNat 32 c.toNat := by
    apply BitVec.eq_of_toNat_eq
    simp only [BitVec.toNat_ofInt, BitVec.toNat_sub, BitVec.toNat_ofNat]
    omega
  simp only [subWith, difference, sign_eq_msb]

theorem subWith_false : subWith a b false =
    ⟨a - b, decide (a.toNat < b.toNat), a.msb != b.msb && b.msb == (a - b).msb⟩ := by
  simpa using subWith_eq a b false

/-- The sign test of an addition is the signed overflow of the exact sum. -/
theorem addWith_of_iff : (addWith a b c).of = true ↔ OutOfRange (a.toInt + b.toInt + c.toNat) := by
  have ha := a.toInt_lt
  have ha' := a.le_toInt
  have hb := b.toInt_lt
  have hb' := b.le_toInt
  have hc := Bool.toNat_le c
  have res : (a + b + BitVec.ofNat 32 c.toNat).toInt = (a.toInt + b.toInt + c.toNat).bmod (2 ^ 32) := by
    simp [BitVec.toInt_add, carry_toInt]
  simp only [addWith_eq, BitVec.msb_eq_toInt, res, OutOfRange, Int.bmod_def, Bool.and_eq_true, beq_iff_eq,
    bne_iff_ne, ne_eq, decide_eq_decide]
  omega

/-- The sign test of a subtraction is the signed overflow of the exact difference. -/
theorem subWith_of_iff : (subWith a b c).of = true ↔ OutOfRange (a.toInt - b.toInt - c.toNat) := by
  have ha := a.toInt_lt
  have ha' := a.le_toInt
  have hb := b.toInt_lt
  have hb' := b.le_toInt
  have hc := Bool.toNat_le c
  have res : (a - b - BitVec.ofNat 32 c.toNat).toInt = (a.toInt - b.toInt - c.toNat).bmod (2 ^ 32) := by
    simp [BitVec.toInt_sub, carry_toInt]
  simp only [subWith_eq, BitVec.msb_eq_toInt, res, OutOfRange, Int.bmod_def, Bool.and_eq_true, beq_iff_eq,
    bne_iff_ne, ne_eq, decide_eq_decide]
  omega

end Sums

/-- OF after an ALU instruction whose destination is not FLAGS is what its operation gives. -/
theorem aluStep_flag_OF (s : State) (f : Word → Word → Bool → AluOut) {rd : Reg} (rs : Reg) (rn : Operand)
    (h : rd ≠ Reg.flags) :
    (s.aluStep f rd rs rn).flag .OF = (f (s.reg rs) (s.operand rn) (s.flag .CF)).of := by
  obtain ⟨_, _, flags, _⟩ := aluStep_effect s rd rs rn (f := f) rfl
  obtain ⟨_, overflow, _⟩ := flags h
  exact overflow

/-! ### Shifts (R150 to R152) -/

section Shift

variable (a b : Word) (c : Bool)

/-- Over 33 bits, a left shift by more than 33 gives what the shift by 33 gives: nothing. -/
theorem mul_pow_shiftCount : a.toNat * 2 ^ shiftCount b % 2 ^ 33 = a.toNat * 2 ^ b.toNat % 2 ^ 33 := by
  unfold shiftCount
  rcases Nat.le_total b.toNat 33 with h | h
  · rw [Nat.min_eq_left h]
  · have gone (n : Nat) (hn : 33 ≤ n) : a.toNat * 2 ^ n % 2 ^ 33 = 0 :=
      Nat.mod_eq_zero_of_dvd (Dvd.dvd.mul_left (Nat.pow_dvd_pow 2 hn) _)
    rw [Nat.min_eq_right h, gone _ (Nat.le_refl 33), gone _ h]

/-- A right shift of 33 bits by more than 33 gives what the shift by 33 gives: nothing. -/
theorem div_pow_shiftCount {n : Nat} (hn : n < 2 ^ 33) : n / 2 ^ shiftCount b = n / 2 ^ b.toNat := by
  unfold shiftCount
  rcases Nat.le_total b.toNat 33 with h | h
  · rw [Nat.min_eq_left h]
  · have large : 2 ^ 33 ≤ 2 ^ b.toNat := Nat.pow_le_pow_right (by decide) h
    rw [Nat.min_eq_right h, Nat.div_eq_of_lt hn, Nat.div_eq_of_lt (by omega)]

/-- An arithmetic right shift of 33 bits by more than 33 gives what the shift by 33 gives: the sign alone. -/
theorem int_div_pow_shiftCount {z : Int} (h0 : -2 ^ 33 ≤ z) (h1 : z < 2 ^ 33) :
    z / 2 ^ shiftCount b = z / 2 ^ b.toNat := by
  unfold shiftCount
  rcases Nat.le_total b.toNat 33 with h | h
  · rw [Nat.min_eq_left h]
  · have large : (2 : Int) ^ 33 ≤ 2 ^ b.toNat := by
      exact_mod_cast Nat.pow_le_pow_right (n := 2) (by decide) h
    rw [Nat.min_eq_right h]
    rcases Int.lt_or_le z 0 with hz | hz
    · have sign_only (d : Int) (hd : 2 ^ 33 ≤ d) : z / d = -1 := by
        rw [Int.ediv_eq_iff_of_pos (by omega)]
        omega
      rw [sign_only _ (Int.le_refl _), sign_only _ large]
    · rw [Int.ediv_eq_zero_of_lt hz h1, Int.ediv_eq_zero_of_lt hz (by omega)]

theorem aluLls_eq : aluLls a b c =
    ⟨BitVec.ofNat 32 (a.toNat * 2 ^ b.toNat), (a.toNat * 2 ^ b.toNat).testBit 32, false⟩ := by
  have shifted : a.setWidth 33 <<< shiftCount b = BitVec.ofNat 33 (a.toNat * 2 ^ b.toNat) := by
    apply BitVec.eq_of_toNat_eq
    rw [BitVec.toNat_shiftLeft, BitVec.toNat_ofNat, Nat.shiftLeft_eq,
      BitVec.toNat_setWidth_of_le (by decide), mul_pow_shiftCount]
  simp only [aluLls, shifted, BitVec.setWidth_ofNat_of_le (show 32 ≤ 33 by decide), BitVec.getLsbD_ofNat]
  simp

/-- Twice the operand, as the 33 bits the right shifts start from. -/
theorem double_toNat : (a ++ 0#1).toNat = a.toNat * 2 := by
  rw [BitVec.toNat_append, Nat.shiftLeft_eq]
  simp

theorem double_toInt : (a ++ 0#1).toInt = a.toInt * 2 :=
  BitVec.toInt_append_zero.trans (Int.mul_comm _ _)

theorem aluRls_eq : aluRls a b c =
    ⟨BitVec.ofNat 32 (a.toNat * 2 / 2 ^ b.toNat / 2), decide (a.toNat * 2 / 2 ^ b.toNat % 2 = 1), false⟩ := by
  have ha := a.isLt
  have shifted : ((a ++ 0#1) >>> shiftCount b).toNat = a.toNat * 2 / 2 ^ b.toNat := by
    rw [BitVec.toNat_ushiftRight, Nat.shiftRight_eq_div_pow, double_toNat, div_pow_shiftCount b (by omega)]
  have res : ((a ++ 0#1) >>> shiftCount b).extractLsb' 1 32 = BitVec.ofNat 32 (a.toNat * 2 / 2 ^ b.toNat / 2) := by
    apply BitVec.eq_of_toNat_eq
    rw [BitVec.extractLsb'_toNat, shifted, BitVec.toNat_ofNat, Nat.shiftRight_eq_div_pow, Nat.pow_one]
  have carry : ((a ++ 0#1) >>> shiftCount b).getLsbD 0 = decide (a.toNat * 2 / 2 ^ b.toNat % 2 = 1) := by
    rw [BitVec.getLsbD, shifted, Nat.testBit_zero]
  simp only [aluRls, res, carry]

theorem aluArs_eq : aluArs a b c =
    ⟨BitVec.ofInt 32 (a.toInt * 2 / 2 ^ b.toNat / 2), decide (a.toInt * 2 / 2 ^ b.toNat % 2 = 1), false⟩ := by
  have ha := a.toInt_lt
  have ha' := a.le_toInt
  generalize hz : a.toInt * 2 / 2 ^ b.toNat = z
  generalize ht : (a ++ 0#1).sshiftRight (shiftCount b) = t
  have shifted : t.toInt = z := by
    rw [← ht, ← hz, BitVec.toInt_sshiftRight, Int.shiftRight_eq_div_pow, double_toInt]
    push_cast
    exact int_div_pow_shiftCount b (by omega) (by omega)
  have htn := t.isLt
  rw [BitVec.toInt_eq_toNat_cond] at shifted
  have res : t.extractLsb' 1 32 = BitVec.ofInt 32 (z / 2) := by
    apply BitVec.eq_of_toNat_eq
    rw [BitVec.extractLsb'_toNat, BitVec.toNat_ofInt, Nat.shiftRight_eq_div_pow]
    split at shifted <;> omega
  have carry : t.getLsbD 0 = decide (z % 2 = 1) := by
    rw [BitVec.getLsbD, Nat.testBit_zero, decide_eq_decide]
    split at shifted <;> omega
  simp only [aluArs, ht, res, carry]

end Shift

/-! ### Rotations (R153, R154) -/

/-- Bit `i` goes up by `n`, and past bit 31 around to the low end. -/
theorem rotateLeft_bit (a : Word) {n i : Nat} (hn : n < 32) (hi : i < 32) :
    (a <<< n ||| a >>> (32 - n)).getLsbD ((i + n) % 32) = a.getLsbD i := by
  rcases Nat.lt_or_ge (i + n) 32 with h | h
  · have above : a.getLsbD (32 - n + (i + n)) = false := BitVec.getLsbD_of_ge _ _ (by omega)
    simp only [Nat.mod_eq_of_lt h, BitVec.getLsbD_or, BitVec.getLsbD_shiftLeft, BitVec.getLsbD_ushiftRight, above]
    simp [h]
  · have wrapped : (i + n) % 32 = i + n - 32 := by omega
    have low : i + n - 32 < n := by omega
    have source : 32 - n + (i + n - 32) = i := by omega
    simp only [wrapped, BitVec.getLsbD_or, BitVec.getLsbD_shiftLeft, BitVec.getLsbD_ushiftRight, source]
    simp [low]

/-- Bit `i` comes from `n` above, and past bit 31 from around the low end. -/
theorem rotateRight_bit (a : Word) {n i : Nat} (hn : n < 32) (hi : i < 32) :
    (a >>> n ||| a <<< (32 - n)).getLsbD i = a.getLsbD ((i + n) % 32) := by
  rcases Nat.lt_or_ge (i + n) 32 with h | h
  · have low : i < 32 - n := by omega
    simp only [Nat.mod_eq_of_lt h, Nat.add_comm n i, BitVec.getLsbD_or, BitVec.getLsbD_shiftLeft,
      BitVec.getLsbD_ushiftRight]
    simp [low]
  · have wrapped : (i + n) % 32 = i - (32 - n) := by omega
    have high : ¬ i < 32 - n := by omega
    have above : a.getLsbD (n + i) = false := BitVec.getLsbD_of_ge _ _ (by omega)
    simp only [wrapped, BitVec.getLsbD_or, BitVec.getLsbD_shiftLeft, BitVec.getLsbD_ushiftRight, above]
    simp [high, hi]

/-! ### Products and quotients (R156 to R159) -/

section Wide

theorem halves_toNat (p : BitVec 64) : (halves p).y.toNat * 2 ^ 32 + (halves p).rd.toNat = p.toNat := by
  have hp := p.isLt
  simp only [halves, BitVec.extractLsb'_toNat, Nat.shiftRight_eq_div_pow]
  omega

/-- The high half carries the sign of the 64-bit value. -/
theorem halves_toInt (p : BitVec 64) : (halves p).y.toInt * 2 ^ 32 + (halves p).rd.toNat = p.toInt := by
  have hp := p.isLt
  have whole := halves_toNat p
  have hy := (halves p).y.isLt
  have hrd := (halves p).rd.isLt
  rw [BitVec.toInt_eq_toNat_cond, BitVec.toInt_eq_toNat_cond]
  split <;> split <;> omega

variable (a d : Word)

theorem mulWide_toNat : (mulWide a d).y.toNat * 2 ^ 32 + (mulWide a d).rd.toNat = a.toNat * d.toNat := by
  have fits : a.toNat * d.toNat < 2 ^ 64 := by
    have product := Nat.mul_lt_mul'' a.isLt d.isLt
    omega
  rw [mulWide, halves_toNat, BitVec.toNat_mul, BitVec.toNat_setWidth_of_le (by decide),
    BitVec.toNat_setWidth_of_le (by decide), Nat.mod_eq_of_lt fits]

theorem smulWide_toInt : (smulWide a d).y.toInt * 2 ^ 32 + (smulWide a d).rd.toNat = a.toInt * d.toInt := by
  have upper := BitVec.toInt_mul_toInt_le (x := a) (y := d)
  have lower := BitVec.le_toInt_mul_toInt (x := a) (y := d)
  rw [smulWide, halves_toInt, BitVec.toInt_mul, BitVec.toInt_signExtend_of_le (by decide),
    BitVec.toInt_signExtend_of_le (by decide)]
  exact Int.bmod_eq_of_le (by omega) (by omega)

theorem divWide_spec (h : d ≠ 0#32) :
    a.toNat = (divWide a d).rd.toNat * d.toNat + (divWide a d).y.toNat ∧ (divWide a d).y.toNat < d.toNat := by
  have positive : 0 < d.toNat := Nat.pos_of_ne_zero fun e => h (BitVec.eq_of_toNat_eq e)
  have ha := a.isLt
  have quotient := Nat.div_le_self a.toNat d.toNat
  have remainder := Nat.mod_lt a.toNat positive
  have hd := d.isLt
  simp only [divWide, BitVec.toNat_ofNat, Nat.mod_eq_of_lt (show a.toNat / d.toNat < 2 ^ 32 by omega),
    Nat.mod_eq_of_lt (show a.toNat % d.toNat < 2 ^ 32 by omega)]
  exact ⟨(Nat.div_add_mod' _ _).symm, remainder⟩

/-- Outside the one overflow, SDIV is the library's division that rounds toward zero. -/
theorem sdivWide_of_no_overflow (h : a ≠ BitVec.intMin 32 ∨ d ≠ -1#32) :
    sdivWide a d = ⟨a.sdiv d, a.srem d⟩ := by
  have hov : ¬ (a = 0x80000000#32 ∧ d = 0xFFFFFFFF#32) := fun ⟨ha, hd⟩ => h.elim (· ha) (· hd)
  have remainder : a.toInt - a.toInt.tdiv d.toInt * d.toInt = a.toInt.tmod d.toInt := by
    rw [Int.tmod_def, Int.mul_comm]
  simp only [sdivWide, if_neg hov, remainder]
  rw [← BitVec.toInt_srem, ← BitVec.toInt_sdiv_of_ne_or_ne a d h, BitVec.ofInt_toInt, BitVec.ofInt_toInt]

/-- A remainder that is not zero has the dividend's sign. -/
theorem tmod_neg_iff {m n : Int} (h : m.tmod n ≠ 0) : m.tmod n < 0 ↔ m < 0 := by
  have sign := Int.sign_tmod m n
  rw [if_neg fun divides => h (Int.tmod_eq_zero_of_dvd divides)] at sign
  rw [← Int.sign_eq_neg_one_iff_neg, sign, Int.sign_eq_neg_one_iff_neg]

theorem sdivWide_spec (h : d ≠ 0#32) :
    if a = 0x80000000#32 ∧ d = 0xFFFFFFFF#32 then (sdivWide a d).rd = 0x80000000#32 ∧ (sdivWide a d).y = 0#32
    else a.toInt = (sdivWide a d).rd.toInt * d.toInt + (sdivWide a d).y.toInt ∧
      (sdivWide a d).y.toInt.natAbs < d.toInt.natAbs ∧
      ((sdivWide a d).y ≠ 0#32 → ((sdivWide a d).y.toInt < 0 ↔ a.toInt < 0)) := by
  split
  · rename_i hov
    simp [sdivWide, hov]
  · rename_i hov
    have no_overflow : a ≠ BitVec.intMin 32 ∨ d ≠ -1#32 := Decidable.not_and_iff_or_not.1 hov
    have nonzero : d.toInt ≠ 0 := fun e => h (BitVec.toInt_inj.1 e)
    rw [sdivWide_of_no_overflow a d no_overflow]
    simp only [BitVec.toInt_sdiv_of_ne_or_ne a d no_overflow, BitVec.toInt_srem]
    refine ⟨(Int.tdiv_mul_add_tmod _ _).symm, ?_, fun hr => tmod_neg_iff fun e => hr ?_⟩
    · rw [Int.natAbs_tmod]
      exact Nat.mod_lt _ (Int.natAbs_pos.2 nonzero)
    · exact BitVec.toInt_inj.1 (by rw [BitVec.toInt_srem, e]; rfl)

end Wide

/-! ### The statements of 40_p3_three_operand.md sections 2 to 5 -/

/-- Settles O23: each operation clears CF and OF by definition. -/
theorem logicResultsAndFlags : Obligations.LogicResultsAndFlags := fun rd rs rn s =>
  ⟨⟨_, rfl, aluStep_effect s rd rs rn rfl⟩, ⟨_, rfl, aluStep_effect s rd rs rn rfl⟩,
    ⟨_, rfl, aluStep_effect s rd rs rn rfl⟩, ⟨_, rfl, aluStep_effect s rd rs rn rfl⟩⟩

/-- Settles O24: the exact sum, without and with CF. -/
theorem additionResultsAndFlags : Obligations.AdditionResultsAndFlags := fun rd rs rn s =>
  ⟨⟨_, rfl, aluStep_effect s rd rs rn (addWith_false _ _)⟩, ⟨_, rfl, aluStep_effect s rd rs rn (addWith_eq _ _ _)⟩⟩

/-- Settles O25: the exact difference, without and with CF. -/
theorem subtractionResultsAndFlags : Obligations.SubtractionResultsAndFlags := fun rd rs rn s =>
  ⟨⟨_, rfl, aluStep_effect s rd rs rn (subWith_false _ _)⟩, ⟨_, rfl, aluStep_effect s rd rs rn (subWith_eq _ _ _)⟩⟩

/-- Settles O26: the exact difference with the operands exchanged. -/
theorem reverseSubtractionResultsAndFlags : Obligations.ReverseSubtractionResultsAndFlags := fun rd rs rn s =>
  ⟨⟨_, rfl, aluStep_effect s rd rs rn (subWith_false _ _)⟩, ⟨_, rfl, aluStep_effect s rd rs rn (subWith_eq _ _ _)⟩⟩

/-- Settles O27: OF is what the operation gives, and its sign test is the signed overflow; without CF the carry is 0. -/
theorem overflowFlagIsSignedOverflow : Obligations.OverflowFlagIsSignedOverflow := by
  intro rd rs rn s hrd
  have plain_add := addWith_of_iff (s.reg rs) (s.operand rn) false
  have plain_sub := subWith_of_iff (s.reg rs) (s.operand rn) false
  have plain_rsb := subWith_of_iff (s.operand rn) (s.reg rs) false
  rw [Bool.toNat_false, Int.ofNat_zero, Int.add_zero] at plain_add
  rw [Bool.toNat_false, Int.ofNat_zero, Int.sub_zero] at plain_sub plain_rsb
  exact ⟨⟨_, rfl, by rw [aluStep_flag_OF s _ rs rn hrd]; exact plain_add⟩,
    ⟨_, rfl, by rw [aluStep_flag_OF s _ rs rn hrd]; exact addWith_of_iff _ _ _⟩,
    ⟨_, rfl, by rw [aluStep_flag_OF s _ rs rn hrd]; exact plain_sub⟩,
    ⟨_, rfl, by rw [aluStep_flag_OF s _ rs rn hrd]; exact subWith_of_iff _ _ _⟩,
    ⟨_, rfl, by rw [aluStep_flag_OF s _ rs rn hrd]; exact plain_rsb⟩,
    ⟨_, rfl, by rw [aluStep_flag_OF s _ rs rn hrd]; exact subWith_of_iff _ _ _⟩⟩

/-- Settles O28: each shift over 33 bits is exact, and a count past 33 moves no further bit. -/
theorem shiftsAreExactForEveryCount : Obligations.ShiftsAreExactForEveryCount := fun rd rs rn s =>
  ⟨⟨_, rfl, aluStep_effect s rd rs rn (aluLls_eq _ _ _)⟩, ⟨_, rfl, aluStep_effect s rd rs rn (aluRls_eq _ _ _)⟩,
    ⟨_, rfl, aluStep_effect s rd rs rn (aluArs_eq _ _ _)⟩⟩

/-- Settles O29: bit by bit, by whether the bit goes around the end. -/
theorem rotatesMoveEveryBit : Obligations.RotatesMoveEveryBit := by
  intro rd rs rn s n
  have hn : n < 32 := Nat.mod_lt _ (by decide)
  exact ⟨⟨_, _, rfl, aluStep_effect s rd rs rn rfl, fun i hi => rotateLeft_bit _ hn hi⟩,
    ⟨_, _, rfl, aluStep_effect s rd rs rn rfl, fun i hi => rotateRight_bit _ hn hi⟩⟩

/-- Settles O30: a product of two 32-bit values fits in 64 bits, unsigned and signed. -/
theorem multiplyGivesFullProduct : Obligations.MultiplyGivesFullProduct := fun rd rs rn s =>
  ⟨⟨_, _, _, rfl, multiplyStep_effect s rd rs rn 17 rfl, mulWide_toNat _ _⟩,
    ⟨_, _, _, rfl, multiplyStep_effect s rd rs rn 27 rfl, smulWide_toInt _ _⟩⟩

/-- Settles O31: Euclidean division of naturals, and the zero divisor apart. -/
theorem unsignedDivision : Obligations.UnsignedDivision := fun rd rs rn s =>
  ⟨fun h => ⟨_, _, _, rfl, divideStep_effect s rd rs rn divWide 27 h, divWide_spec _ _ h⟩,
    fun h => ⟨_, rfl, divideStep_zeroDivisor s rd rs rn divWide 27 h⟩⟩

/-- Settles O32: truncated division of integers, with the overflow and the zero divisor apart. -/
theorem signedDivision : Obligations.SignedDivision := fun rd rs rn s =>
  ⟨fun h => ⟨_, _, _, rfl, divideStep_effect s rd rs rn sdivWide 37 h, sdivWide_spec _ _ h⟩,
    fun h => ⟨_, rfl, divideStep_zeroDivisor s rd rs rn sdivWide 37 h⟩⟩

end Sys2Proof.Machine
end

section
/-! Loads and stores, moves and exchanges, conditional skips, SLEEP, INT and the unknown opcodes
(20_memory.md, 40_p3_three_operand.md section 6, 41_p2_two_operand.md, 42_p1_one_operand.md). -/

namespace Sys2Proof.Machine

open Sys2Proof.Claims

/-! ### Numbers in memory -/

section LittleEndian

theorem append_toNat {m n : Nat} (x : BitVec m) (y : BitVec n) : (x ++ y).toNat = x.toNat * 2 ^ n + y.toNat := by
  rw [BitVec.toNat_append, ← Nat.shiftLeft_add_eq_or_of_lt y.isLt, Nat.shiftLeft_eq]

variable (s : State) (a : Word)

theorem readByte_littleEndian : (s.readByte a).toNat = littleEndian s a 1 := by
  simp only [littleEndian]
  omega

theorem readHalf_littleEndian : (s.readHalf a).toNat = littleEndian s a 2 := by
  simp only [littleEndian, State.readHalf, append_toNat]
  omega

theorem readWord_littleEndian : (s.readWord a).toNat = littleEndian s a 4 := by
  simp only [littleEndian, State.readWord, wordOfBytes, append_toNat, BitVec.add_assoc, BitVec.reduceAdd]
  omega

end LittleEndian

/-! ### Registers written alone -/

/-- `x[rd] <- v` at the base cost writes no other register and no other state. -/
theorem setReg_effect (s : State) (rd : Reg) (v : Word) : RegEffect s ((s.addCost 3).setReg rd v) rd v :=
  ⟨by simp, fun r hr => by simp [List.ne_of_not_mem_cons hr], (setReg_registersOnly s rd v).onlyRegisters⟩

/-- A register written with what `n` bytes of memory make is loaded with them. -/
theorem loadEffect_of_toNat {s : State} (rd : Reg) {a v : Word} {n : Nat} (h : v.toNat = littleEndian s a n) :
    LoadEffect s ((s.addCost 3).setReg rd v) rd a n := by
  obtain ⟨hv, others, rest⟩ := setReg_effect s rd v
  exact ⟨by rw [hv, h], others, rest⟩

/-! ### Stores -/

section Stores

/-- The bytes written stand at their addresses, which stay apart modulo 2^32. -/
theorem writeBytes_readByte_inside (bs : List Byte) : ∀ (s : State) (a : Word) (k : Nat) (hk : k < bs.length),
    bs.length ≤ 2 ^ 32 → (s.writeBytes a bs).readByte (a + BitVec.ofNat 32 k) = bs[k] := by
  induction bs with
  | nil => intro s a k hk; simp at hk
  | cons b bs ih =>
    intro s a k hk hlen
    rw [List.length_cons] at hk hlen
    rw [writeBytes_cons]
    cases k with
    | zero =>
      rw [writeBytes_readByte_outside, writeByte_readByte]
      · simp
      · intro j hj
        bv_omega
    | succ k =>
      have later : a + BitVec.ofNat 32 (k + 1) = a + 1#32 + BitVec.ofNat 32 k := by bv_omega
      rw [later, ih _ _ k (by omega) (by omega), List.getElem_cons_succ]

/-- Writing the `n` low bytes of a value, least significant first, stores it. -/
theorem writeBytes_storeEffect (s : State) (a v : Word) (bs : List Byte) (hlen : bs.length ≤ 2 ^ 32)
    (hbs : ∀ k (hk : k < bs.length), bs[k].toNat = v.toNat / 256 ^ k % 256) :
    StoreEffect s ((s.addCost 3).writeBytes a bs) a bs.length v := by
  refine ⟨fun k hk => ?_, writeBytes_memorySameBut (s.addCost 3) a bs, fun r _ => ?_, ?_, ?_, ?_⟩
  · rw [writeBytes_readByte_inside bs _ a k hk hlen, hbs k hk]
  · rw [writeBytes_reg, addCost_reg]
  · rw [writeBytes_pc, addCost_pc]
  · simp [ControlSame]
  · rw [writeBytes_cost, addCost_cost]

variable (s : State) (rd : Reg) (a : Word)

theorem storeWord_effect : StoreEffect s (s.storeWord rd a) a 4 (s.reg rd) :=
  writeBytes_storeEffect s a (s.reg rd) (bytesOfWord (s.reg rd)) (by simp [bytesOfWord]) fun k hk => by
    match k, hk with
    | 0, _ | 1, _ | 2, _ | 3, _ => exact byte_toNat _ _

theorem storeHalf_effect : StoreEffect s (s.storeHalf rd a) a 2 (s.reg rd) :=
  writeBytes_storeEffect s a (s.reg rd) [_, _] (by simp) fun k hk => by
    match k, hk with
    | 0, _ => simp
    | 1, _ => simp [Nat.shiftRight_eq_div_pow]

theorem storeByte_effect : StoreEffect s (s.storeByte rd a) a 1 (s.reg rd) :=
  writeBytes_storeEffect s a (s.reg rd) [_] (by simp) fun k hk => by
    match k, hk with
    | 0, _ => simp

theorem operand_congr {s t : State} (rn : Operand) (h : ∀ r, t.reg r = s.reg r) : t.operand rn = s.operand rn := by
  cases rn with
  | reg r => exact h r
  | lit v | long v => rfl

theorem address3_congr {s t : State} (rs : Reg) (rn : Operand) (h : ∀ r, t.reg r = s.reg r) :
    t.address3 rs rn = s.address3 rs rn := by
  rw [State.address3, State.address3, h, operand_congr rn h]

theorem address2_congr {s t : State} (rn : Operand) (h : ∀ r, t.reg r = s.reg r) : t.address2 rn = s.address2 rn :=
  operand_congr rn h

variable (re : Reg)

theorem loadWord_storeWord : ((s.storeWord rd a).loadWord re a).reg re = s.reg rd := by
  rw [loadWord_reg, if_pos rfl, State.storeWord, writeWord_readWord]

theorem loadHalf_storeHalf : (((s.storeHalf rd a).loadHalf re a).reg re).toNat = (s.reg rd).toNat % 2 ^ 16 := by
  rw [loadHalf_reg, if_pos rfl, State.storeHalf, writeHalf_readHalf, BitVec.toNat_setWidth_of_le (by decide)]
  simp

theorem loadByte_storeByte : (((s.storeByte rd a).loadByte re a).reg re).toNat = (s.reg rd).toNat % 2 ^ 8 := by
  rw [loadByte_reg, if_pos rfl, State.storeByte, writeByte_readByte, if_pos rfl,
    BitVec.toNat_setWidth_of_le (by decide)]
  simp

end Stores

/-! ### Bytes exchanged (R240, R241) -/

section Exchange

variable (v : Word)

/-- A field of a field, wherever the outer one starts. -/
theorem extract_extract {n : Nat} (x : BitVec n) (a b m k : Nat) (h : b + k ≤ m) :
    (x.extractLsb' a m).extractLsb' b k = x.extractLsb' (a + b) k := by
  apply BitVec.eq_of_getLsbD_eq
  intro i hi
  simp [hi, show b + i < m by omega, Nat.add_assoc]

theorem exchangeBytes_bytes :
    Word.byte (exchangeBytes v) 0 = Word.byte v 1 ∧ Word.byte (exchangeBytes v) 1 = Word.byte v 0 ∧
    Word.byte (exchangeBytes v) 2 = Word.byte v 2 ∧ Word.byte (exchangeBytes v) 3 = Word.byte v 3 := by
  refine ⟨?_, ?_, ?_, ?_⟩ <;>
    simp (disch := decide) only [Word.byte, exchangeBytes, extract_append_high, extract_append_low, extract_extract,
      Nat.reduceMul, Nat.reduceSub]

theorem exchangeHalves_bytes :
    Word.byte (exchangeHalves v) 0 = Word.byte v 2 ∧ Word.byte (exchangeHalves v) 1 = Word.byte v 3 ∧
    Word.byte (exchangeHalves v) 2 = Word.byte v 0 ∧ Word.byte (exchangeHalves v) 3 = Word.byte v 1 := by
  refine ⟨?_, ?_, ?_, ?_⟩ <;>
    simp (disch := decide) only [Word.byte, exchangeHalves, extract_append_high, extract_append_low, extract_extract,
      Nat.reduceMul, Nat.reduceSub]

end Exchange

/-! ### Values of the moves (R202 to R204) -/

theorem extract_byte_eq_ofNat (v : Word) : v.extractLsb' 0 8 = BitVec.ofNat 8 (v.toNat % 256) := by
  apply BitVec.eq_of_toNat_eq
  simp

theorem signExtendByte_eq (v : Word) : signExtendByte v = BitVec.ofInt 32 (v.setWidth 8).toInt := by
  rw [signExtendByte, ← BitVec.setWidth_eq_extractLsb' (by decide)]
  rfl

theorem signExtendHalf_eq (v : Word) : signExtendHalf v = BitVec.ofInt 32 (v.setWidth 16).toInt := by
  rw [signExtendHalf, ← BitVec.setWidth_eq_extractLsb' (by decide)]
  rfl

theorem not_eq_ofNat (v : Word) : ~~~v = BitVec.ofNat 32 (2 ^ 32 - 1 - v.toNat) := by
  rw [← BitVec.toNat_not, BitVec.ofNat_toNat, BitVec.setWidth_eq]

/-! ### Conditional skips (R220 to R228) -/

section Conditionals

variable (s : State)

/-- A conditional skip under a predicate that says `P`: the base cost alone, or `skipping` at one cycle more. -/
theorem condStep_eq {p : Word → Word → Bool} (rd : Reg) (rn : Operand) {P : Prop} [Decidable P]
    (h : p (s.reg rd) (s.operand rn) = true ↔ P) :
    (.next (s.condStep p rd rn) : Result) =
      if P then .next { s with cost := s.cost + 3 } else .next { s with cost := s.cost + 4, skipping := true } := by
  by_cases hP : P
  · rw [if_pos hP, State.condStep, h.2 hP]
    rfl
  · rw [if_neg hP, State.condStep, Bool.eq_false_iff.2 fun e => hP (h.1 e)]
    rfl

/-- The same with the predicate's negation, as IFNEQ and IFCLEAR are said. -/
theorem condStep_eq_of_not {p : Word → Word → Bool} (rd : Reg) (rn : Operand) {P : Prop} [Decidable P]
    (h : p (s.reg rd) (s.operand rn) = true ↔ ¬ P) :
    (.next (s.condStep p rd rn) : Result) =
      if P then .next { s with cost := s.cost + 4, skipping := true } else .next { s with cost := s.cost + 3 } := by
  rw [condStep_eq s rd rn h, ite_not]

/-- Two words share a bit exactly if their conjunction is not zero. -/
theorem and_ne_zero_iff (a b : Word) : a &&& b ≠ 0#32 ↔ ∃ k : Fin 32, (a.getLsbD k && b.getLsbD k) = true := by
  constructor
  · intro h
    by_contra none
    refine h (BitVec.eq_of_getLsbD_eq fun i hi => ?_)
    have bit : ¬ (a.getLsbD i && b.getLsbD i) = true := fun e => none ⟨⟨i, hi⟩, e⟩
    simpa using bit
  · rintro ⟨k, hk⟩ h
    have bit := congrArg (·.getLsbD k) h
    rw [← BitVec.getLsbD_and] at hk
    simp only [hk] at bit
    simp at bit

end Conditionals

/-! ### The statements of 40_p3_three_operand.md section 6 and 41_p2_two_operand.md section 3 -/

/-- Settles O33: the value read is the number its bytes make, and a load writes it to `x[rd]` alone. -/
theorem loadsReadLittleEndianZeroExtended : Obligations.LoadsReadLittleEndianZeroExtended := by
  intro rd rs rn s
  have word (a : Word) : LoadEffect s (s.loadWord rd a) rd a 4 :=
    loadEffect_of_toNat rd (readWord_littleEndian s a)
  have half (a : Word) : LoadEffect s (s.loadHalf rd a) rd a 2 :=
    loadEffect_of_toNat rd (by rw [BitVec.toNat_setWidth_of_le (by decide), readHalf_littleEndian])
  have byte (a : Word) : LoadEffect s (s.loadByte rd a) rd a 1 :=
    loadEffect_of_toNat rd (by rw [BitVec.toNat_setWidth_of_le (by decide), readByte_littleEndian])
  exact ⟨⟨_, rfl, word _⟩, ⟨_, rfl, half _⟩, ⟨_, rfl, byte _⟩, ⟨_, rfl, word _⟩, ⟨_, rfl, half _⟩, ⟨_, rfl, byte _⟩⟩

/-- Settles O34: one effect per width, at either effective address. -/
theorem storesWriteTheirBytesOnly : Obligations.StoresWriteTheirBytesOnly := fun rd _ _ s =>
  ⟨⟨_, rfl, storeWord_effect s rd _⟩, ⟨_, rfl, storeHalf_effect s rd _⟩, ⟨_, rfl, storeByte_effect s rd _⟩,
    ⟨_, rfl, storeWord_effect s rd _⟩, ⟨_, rfl, storeHalf_effect s rd _⟩, ⟨_, rfl, storeByte_effect s rd _⟩⟩

/-- Settles O35: a store moves no register, so the load has its address, and reads what was written. -/
theorem loadAfterStoreGivesValue : Obligations.LoadAfterStoreGivesValue := by
  intro rd re rs rn s
  refine ⟨⟨_, _, rfl, rfl, ?_⟩, ⟨_, _, rfl, rfl, ?_⟩, ⟨_, _, rfl, rfl, ?_⟩, ⟨_, _, rfl, rfl, ?_⟩, ⟨_, _, rfl, rfl, ?_⟩,
    ⟨_, _, rfl, rfl, ?_⟩⟩
  · rw [address3_congr rs rn (storeWord_reg s rd _), loadWord_storeWord]
  · rw [address3_congr rs rn (storeHalf_reg s rd _), loadHalf_storeHalf]
  · rw [address3_congr rs rn (storeByte_reg s rd _), loadByte_storeByte]
  · rw [address2_congr rn (storeWord_reg s rd _), loadWord_storeWord]
  · rw [address2_congr rn (storeHalf_reg s rd _), loadHalf_storeHalf]
  · rw [address2_congr rn (storeByte_reg s rd _), loadByte_storeByte]

/-! ### The statements of 41_p2_two_operand.md and 42_p1_one_operand.md -/

/-- Settles O36: one register write each, of the value as arithmetic says it. -/
theorem movesWriteTheirRegisterOnly : Obligations.MovesWriteTheirRegisterOnly := fun rd rn s =>
  ⟨⟨_, rfl, setReg_effect s rd _⟩, ⟨_, rfl, by rw [← signExtendByte_eq]; exact setReg_effect s rd _⟩,
    ⟨_, rfl, by rw [← signExtendHalf_eq]; exact setReg_effect s rd _⟩,
    ⟨_, rfl, by rw [← not_eq_ofNat]; exact setReg_effect s rd _⟩⟩

/-- Settles O37: both values are read before either write, so equal registers keep theirs. -/
theorem swapExchangesRegisters : Obligations.SwapExchangesRegisters := by
  intro rd rs v s
  refine ⟨⟨_, rfl, ?_, ?_, fun r hr => ?_, rfl, fun _ => rfl, ⟨rfl, rfl, rfl, rfl, rfl, rfl⟩, rfl⟩, rfl, rfl⟩
  · by_cases h : rd = rs <;> simp [State.onRegister, h]
  · simp [State.onRegister]
  · simp_all [State.onRegister]

/-- Settles O38: one register write each, byte by byte; a literal form is the base cost. -/
theorem registerOperationsOfP1 : Obligations.RegisterOperationsOfP1 := by
  intro r v s
  refine ⟨⟨_, _, rfl, setReg_effect s r _, exchangeBytes_bytes _⟩, ⟨_, _, rfl, setReg_effect s r _,
    exchangeHalves_bytes _⟩, ⟨_, rfl, setReg_effect s r _⟩, fun i hi => ?_⟩
  simp only [List.mem_cons, List.not_mem_nil, or_false] at hi
  rcases hi with rfl | rfl | rfl | rfl | rfl | rfl | rfl | rfl <;> rfl

/-- Settles O39: the rule all eight share, with what each predicate says. -/
theorem conditionalsSkipExactlyWhenFalse : Obligations.ConditionalsSkipExactlyWhenFalse := by
  intro rd rn s a b held skips
  refine ⟨condStep_eq s rd rn ?_, condStep_eq_of_not s rd rn ?_, condStep_eq s rd rn ?_, condStep_eq s rd rn ?_,
    condStep_eq s rd rn ?_, condStep_eq s rd rn ?_, condStep_eq s rd rn ?_, condStep_eq_of_not s rd rn ?_⟩
  · rw [decide_eq_true_eq, BitVec.toNat_inj]
  · rw [decide_eq_true_eq, BitVec.toNat_inj]
  · exact BitVec.ult_iff_toNat_lt
  · exact BitVec.slt_iff_toInt_lt
  · exact BitVec.ule_iff_toNat_le
  · exact BitVec.sle_iff_toInt_le
  · rw [decide_eq_true_eq, and_ne_zero_iff]
  · rw [decide_eq_true_eq, ← and_ne_zero_iff, not_not]

/-- Settles O47: SLEEP as defined; INT by the two cases of its request. -/
theorem sleepAndSoftwareInterrupt : Obligations.SleepAndSoftwareInterrupt := by
  intro rn s
  refine ⟨rfl, ?_⟩
  show (.next ((s.addCost 6).sendInterrupt ((s.operand rn).extractLsb' 0 8)).2 : Result) = _
  rw [extract_byte_eq_ofNat]
  rcases sendInterrupt_cases (s.addCost 6) (BitVec.ofNat 8 ((s.operand rn).toNat % 256)) with ⟨he, e⟩ | ⟨he, e⟩
  · rw [e, if_neg (by simpa using he)]
    rfl
  · rw [addCost_flag] at he
    rw [e, if_pos he]
    rfl

/-- Settles O48: each arm is its family's base cost. -/
theorem unknownOpcodesDoNothing : Obligations.UnknownOpcodesDoNothing := fun _ _ _ _ _ _ _ _ =>
  ⟨rfl, rfl, rfl, rfl⟩

end Sys2Proof.Machine
end

section
/-! The stack, jumps, calls and returns, and the entry into a handler and the return from it (20_memory.md section 7,
42_p1_one_operand.md, 43_np_zero_operand.md, 60_exceptions.md). -/

namespace Sys2Proof.Machine

open Sys2Proof.Claims

/-! ### Values in memory -/

section Values

variable {t : State}

/-- Four bytes that hold a value read as that value. -/
theorem readWord_of_bytesStored {a v : Word} (h : BytesStored t a 4 v) : t.readWord a = v := by
  apply BitVec.eq_of_toNat_eq
  have h0 := h 0 (by decide)
  have h1 := h 1 (by decide)
  have h2 := h 2 (by decide)
  have h3 := h 3 (by decide)
  have hv := v.isLt
  rw [BitVec.add_zero] at h0
  simp only [readWord_littleEndian, littleEndian, BitVec.add_assoc, BitVec.reduceAdd, h0, h1, h2, h3]
  omega

end Values

/-! ### Aligned targets (R199) -/

section Alignment

variable (v : Word)

/-- Clearing bits 1 and 0 rounds down to a multiple of 4. -/
theorem alignTarget_eq_alignedDown : alignTarget v = alignedDown v := by
  apply BitVec.eq_of_getLsbD_eq
  intro i hi
  have mask : (0xFFFFFFFC#32).getLsbD i = decide (2 ≤ i) := by
    revert i
    decide
  have rounded : (v.toNat / 4 * 4).testBit i = (decide (2 ≤ i) && v.toNat.testBit i) := by
    rw [show v.toNat / 4 * 4 = v.toNat >>> 2 <<< 2 by rw [Nat.shiftRight_eq_div_pow, Nat.shiftLeft_eq],
      Nat.testBit_shiftLeft, Nat.testBit_shiftRight]
    by_cases h : 2 ≤ i
    · rw [Nat.add_sub_cancel' h]
    · simp [h]
  rw [alignTarget, BitVec.getLsbD_and, mask, alignedDown, BitVec.getLsbD_ofNat, rounded, Bool.and_comm]
  simp [hi, BitVec.getLsbD]

theorem alignTarget_toNat : (alignTarget v).toNat = v.toNat / 4 * 4 := by
  have hv := v.isLt
  rw [alignTarget_eq_alignedDown, alignedDown, BitVec.toNat_ofNat, Nat.mod_eq_of_lt (by omega)]

end Alignment

/-! ### Jumps, calls, pops -/

section Transfers

variable (s : State)

theorem jump_effect (target : Word) : JumpEffect s ((s.addCost 3).jump target) target :=
  ⟨alignTarget_eq_alignedDown target, fun _ _ => rfl, fun _ => rfl, ⟨rfl, rfl, rfl, rfl, rfl, rfl⟩, rfl⟩

theorem call_effect (target : Word) : CallEffect s (((s.addCost 4).push s.pc).jump target) target := by
  obtain ⟨hsp, others, bytes, memory, control⟩ := push_effect (s.addCost 4) s.pc
  exact ⟨⟨hsp, others, bytes, memory, control⟩, alignTarget_eq_alignedDown target, rfl⟩

/-- POP writes the word at SP and then moves SP, so that SP as the register ends past the value (decision D23). -/
theorem execPop_reg {r : Reg} {t : State} (h : exec (.pop (.reg r)) s = .next t) (q : Reg) : t.reg q =
    if q = Reg.sp then (if r = Reg.sp then s.readWord (s.reg Reg.sp) else s.reg Reg.sp) + 4#32
    else if q = r then s.readWord (s.reg Reg.sp) else s.reg q := by
  cases h
  simp [State.onRegister, eq_comm]

theorem execRet_pc {t : State} (h : exec .ret s = .next t) : t.pc = alignTarget (s.readWord (s.reg Reg.sp)) := by
  cases h
  rfl

theorem execRet_reg {t : State} (h : exec .ret s = .next t) (q : Reg) : t.reg q =
    if q = Reg.sp then s.reg Reg.sp + 4#32 else s.reg q := by
  cases h
  simp

end Transfers

/-! ### Entering a handler (60_exceptions.md R327) -/

section Handler

/-- Two pushes store the first value above the second, and nothing outside the eight bytes. -/
theorem push_push_bytesStored (s : State) (v w : Word) :
    BytesStored ((s.push v).push w) (s.reg Reg.sp - 8#32) 4 w ∧
    BytesStored ((s.push v).push w) (s.reg Reg.sp - 4#32) 4 v := by
  have sp : (s.push v).reg Reg.sp = s.reg Reg.sp - 4#32 := by rw [push_reg, if_pos rfl]
  constructor
  · have lower := push_bytesStored (s.push v) w
    rwa [sp, show s.reg Reg.sp - 4#32 - 4#32 = s.reg Reg.sp - 8#32 by bv_omega] at lower
  · intro k hk
    rw [push_memorySameBut (s.push v) w]
    · exact push_bytesStored s v k hk
    · rintro ⟨j, hj, e⟩
      rw [sp] at e
      bv_omega

theorem push_push_memorySameBut (s : State) (v w : Word) :
    MemorySameBut (s.reg Reg.sp - 8#32) 8 s ((s.push v).push w) := by
  have sp : (s.push v).reg Reg.sp = s.reg Reg.sp - 4#32 := by rw [push_reg, if_pos rfl]
  intro x hx
  rw [push_memorySameBut (s.push v) w, push_memorySameBut s v]
  · rintro ⟨k, hk, e⟩
    exact hx ⟨k + 4, by omega, by bv_omega⟩
  · rintro ⟨k, hk, e⟩
    rw [sp] at e
    exact hx ⟨k, by omega, by bv_omega⟩

theorem push_push_reg (s : State) (v w : Word) (q : Reg) : ((s.push v).push w).reg q =
    if q = Reg.sp then s.reg Reg.sp - 8#32 else s.reg q := by
  by_cases h : q = Reg.sp
  · simp only [push_reg, h, if_true]
    bv_omega
  · simp only [push_reg, h, if_false]

/-- An acceptance with a vector that is not null enters the handler. -/
theorem interruptController_handlerEntered {s : State} (hi : s.interrupt = true) (he : s.flag .EI = true)
    (hv : s.readWord (entryAddress s s.intMsg) ≠ 0#32) : HandlerEntered s s.interruptController s.intMsg := by
  rw [← vectorAddress_eq_entryAddress] at hv
  rcases interruptController_cases s with ⟨idle, _⟩ | ⟨_, _, null, _⟩ | ⟨_, _, _, e⟩
  · simp [hi, he] at idle
  · exact absurd null hv
  · obtain ⟨lower, upper⟩ := push_push_bytesStored s (s.reg 0) s.pc
    have memory := push_push_memorySameBut s (s.reg 0) s.pc
    have regs := push_push_reg s (s.reg 0) s.pc
    have msg : ((s.push (s.reg 0)).push s.pc).intMsg = s.intMsg := rfl
    have step : ((s.push (s.reg 0)).push s.pc).stepMode = s.stepMode := rfl
    have skip : ((s.push (s.reg 0)).push s.pc).skipping = s.skipping := rfl
    have wait : ((s.push (s.reg 0)).push s.pc).waitCycles = s.waitCycles := rfl
    have cost : ((s.push (s.reg 0)).push s.pc).cost = s.cost := rfl
    rw [e]
    generalize (s.push (s.reg 0)).push s.pc = u at lower upper memory regs msg step skip wait cost ⊢
    refine ⟨?_, ?_, ?_, fun r hr => ?_, ?_, fun b hb => ?_, lower, upper, memory, rfl, rfl, msg, step, skip, wait, cost⟩
    · rw [← vectorAddress_eq_entryAddress]
      rfl
    · simp [BitVec.ofNat_toNat]
    · simp [regs]
    · simp_all
    · simp
    · simp_all [Flag.bit]

/-- RFI in the state an entry leaves goes back to where the entry was made. -/
theorem returnFromInterrupt_of_handlerEntered {s t : State} {msg : Byte} (h : HandlerEntered s t msg) (k : Nat) :
    (t.addCost k).returnFromInterrupt.pc = alignTarget s.pc ∧
    RegsSameBut [Reg.flags] s (t.addCost k).returnFromInterrupt ∧
    FlagBitsSameBut [3] s (t.addCost k).returnFromInterrupt ∧
    MemorySameBut (s.reg Reg.sp - 8#32) 8 s (t.addCost k).returnFromInterrupt := by
  obtain ⟨_, _, hsp, others, _, flagBits, lower, upper, memory, _⟩ := h
  have popped_pc := readWord_of_bytesStored lower
  have popped_x0 := readWord_of_bytesStored upper
  refine ⟨?_, fun r hr => ?_, fun b hb => ?_, memory⟩
  · show alignTarget (t.readWord (t.reg Reg.sp)) = _
    rw [hsp, popped_pc]
  · rw [returnFromInterrupt_reg, if_neg (List.ne_of_not_mem_cons hr)]
    simp only [addCost_reg, addCost_readWord, hsp]
    split
    · next h0 => rw [h0, show s.reg Reg.sp - 8#32 + 4#32 = s.reg Reg.sp - 4#32 by bv_omega, popped_x0]
    · split
      · next h0 hsp' => rw [hsp', BitVec.sub_add_cancel]
      · exact others r (by simp_all)
  · rw [returnFromInterrupt_flagBits b hb, addCost_reg, flagBits b hb]

theorem returnFromInterrupt_flag_IF (s : State) : s.returnFromInterrupt.flag .IF = false := by
  rw [State.flag, returnFromInterrupt_reg, if_pos rfl]
  simp [Flag.bit]

/-- From an aligned `pc` the controller misaligns it only by entering a handler. -/
theorem interruptController_aligned_or_entered {u : State} (h : u.pcAligned) : u.interruptController.pcAligned ∨
    (u.interrupt = true ∧ u.flag .EI = true ∧ u.readWord (entryAddress u u.intMsg) ≠ 0#32 ∧
      HandlerEntered u u.interruptController u.intMsg) := by
  rcases interruptController_cases u with ⟨_, e⟩ | ⟨_, _, _, e⟩ | ⟨hi, he, hv, _⟩
  · rw [e]
    exact .inl h
  · rw [e]
    exact .inl h
  · rw [vectorAddress_eq_entryAddress] at hv
    exact .inr ⟨hi, he, hv, interruptController_handlerEntered hi he hv⟩

end Handler

/-! ### Where `pc` stands after a step -/

section PcAfterStep

variable {s : State}

theorem passWord_aligned (h : s.pcAligned) : s.passWord.pcAligned :=
  aligned_add h (by split <;> decide)

/-- The instruction leaves an aligned `pc` aligned: only transfers write it. -/
theorem exec_afterDecode_aligned {i : Instr} {v : State} (h : s.pcAligned) (he : exec i s.afterDecode = .next v) :
    v.pcAligned := by
  rcases exec_pc he with ⟨_, hpc⟩ | ⟨_, aligned⟩
  · rw [State.pcAligned, hpc]
    exact passWord_aligned h
  · exact aligned

theorem stepModeCheck_aligned (h : s.pcAligned) : s.stepModeCheck.pcAligned := by
  obtain ⟨_, hpc, _⟩ := stepModeCheck_unchanged s
  rwa [State.pcAligned, hpc]

theorem step_aligned_or_entered {t : State} (h : s.pcAligned) (hstep : step s = .next t) :
    t.pcAligned ∨ ∃ u, ControllerActsOn s u ∧ u.interrupt = true ∧ u.flag .EI = true ∧
      u.readWord (entryAddress u u.intMsg) ≠ 0#32 ∧ HandlerEntered u t u.intMsg := by
  rcases step_cases hstep with ⟨hs, rfl⟩ | ⟨_, _, rfl⟩ | ⟨hs, hk, i, rest, v, hd, he, rfl⟩
  · exact (interruptController_aligned_or_entered (u := s.setCost 1) h).imp id fun entered =>
      ⟨_, .inl ⟨hs, rfl⟩, entered⟩
  · exact .inl (passWord_aligned h)
  · have aligned := stepModeCheck_aligned (exec_afterDecode_aligned h he)
    exact (interruptController_aligned_or_entered aligned).imp id fun entered =>
      ⟨_, .inr ⟨hs, hk, i, rest, v, hd, he, rfl⟩, entered⟩

end PcAfterStep

/-! ### INT with EI = 1 -/

/-- The step-mode check after a request that was taken leaves one of the two messages pending. -/
theorem stepModeCheck_of_requested {s : State} (msg : Byte) (he : s.flag .EI = true) :
    ((s.setInterrupt true).setIntMsg msg).stepModeCheck =
      (s.setInterrupt true).setIntMsg (if s.stepMode = true ∧ s.flag .IF = false then 0#8 else msg) := by
  rw [stepModeCheck_eq]
  simp only [setIntMsg_stepMode, setIntMsg_flag, setInterrupt_stepMode, setInterrupt_flag, he, if_true]
  split <;> rfl

/-- What an entry leaves does not depend on which request was pending before it. -/
theorem handlerEntered_of_requested {s t : State} {msg : Byte}
    (h : HandlerEntered ((s.setInterrupt true).setIntMsg msg) t msg) : HandlerEntered s t msg := h

/-! ### The statements of 41_p2_two_operand.md, 42_p1_one_operand.md and 43_np_zero_operand.md -/

/-- Settles O41: PUSH is the push of its operand; POP by whether its register is SP. -/
theorem pushAndPopInstructions : Obligations.PushAndPopInstructions := by
  refine ⟨fun rn s => ⟨_, rfl, ?_, rfl, rfl⟩, fun r s => ⟨_, rfl, fun hr => ⟨?_, ?_⟩, fun hr => ?_, fun q hq => ?_, rfl,
    fun _ => rfl, ⟨rfl, rfl, rfl, rfl, rfl, rfl⟩, rfl⟩⟩
  · obtain ⟨hsp, others, bytes, memory, control⟩ := push_effect (s.addCost 3) (s.operand rn)
    exact ⟨hsp, others, bytes, memory, control⟩
  · rw [execPop_reg s rfl, if_neg hr, if_pos rfl, readWord_littleEndian]
  · rw [execPop_reg s rfl, if_pos rfl, if_neg hr]
  · rw [execPop_reg s rfl, if_pos rfl, if_pos hr, BitVec.add_sub_cancel, readWord_littleEndian]
  · rw [execPop_reg s rfl]
    simp_all

/-- Settles O42: the pop reads the four bytes just pushed, and SP goes down by 4 and up again. -/
theorem popAfterPushGivesValue : Obligations.PopAfterPushGivesValue := by
  intro rn r s hr
  have value := push_readWord (s.addCost wideBaseCost) (s.operand rn)
  have regs := push_reg (s.addCost wideBaseCost) (s.operand rn)
  refine ⟨_, _, rfl, rfl, ?_, fun q hq => ?_⟩
  · rw [execPop_reg _ rfl, if_neg hr, if_pos rfl, regs, if_pos rfl]
    exact value
  · rw [execPop_reg _ rfl, if_neg hr, if_neg (List.ne_of_not_mem_cons hq), regs, regs, if_pos rfl]
    split
    · next hsp => rw [hsp, addCost_reg, BitVec.sub_add_cancel]
    · rfl

/-- Settles O43: the aligned target of each, and its frame. -/
theorem jumpsGoToAlignedTargets : Obligations.JumpsGoToAlignedTargets := fun _ _ s =>
  ⟨⟨_, rfl, jump_effect s _⟩, ⟨_, rfl, jump_effect s _⟩, ⟨_, rfl, jump_effect s _⟩⟩

/-- Settles O44: the push and the jump; CALL2 alone may read the SP that the push moved. -/
theorem callsPushTheReturnAddress : Obligations.CallsPushTheReturnAddress := by
  intro rd rn s
  refine ⟨⟨_, rfl, call_effect s _⟩, ⟨_, rfl, call_effect s _⟩, ⟨_, rfl, ?_⟩⟩
  have read_after : ((s.addCost 4).push s.pc).reg rd = if rd = Reg.sp then s.reg Reg.sp - 4#32 else s.reg rd := by
    rw [push_reg, addCost_reg, addCost_reg]
  rw [← read_after]
  exact call_effect s _

/-- Settles O45: each pops what stands at SP, and RFI at SP + 4 too. -/
theorem returnsPopTheirFrame : Obligations.ReturnsPopTheirFrame := by
  intro s
  refine ⟨⟨_, rfl, ?_, ?_, fun r hr => ?_, fun _ => rfl, ⟨rfl, rfl, rfl, rfl, rfl, rfl⟩, rfl⟩,
    ⟨_, rfl, ?_, ?_, ?_, fun r hr => ?_, returnFromInterrupt_flag_IF _, returnFromInterrupt_flagBits,
      fun _ => rfl, rfl, rfl, rfl, rfl, rfl, rfl, rfl⟩⟩
  · rw [← readWord_littleEndian]
    exact alignTarget_toNat _
  · simp
  · simp_all
  · rw [← readWord_littleEndian]
    exact alignTarget_toNat _
  · rw [← readWord_littleEndian, returnFromInterrupt_reg]
    simp
  · simp [returnFromInterrupt_reg]
  · simp_all [returnFromInterrupt_reg]

/-- Settles O46: the return address is the word at the SP that CALL left. -/
theorem returnUndoesCall : Obligations.ReturnUndoesCall := by
  intro rn s aligned
  have value := push_readWord (s.addCost (wideBaseCost + 1)) s.pc
  have regs := push_reg (s.addCost (wideBaseCost + 1)) s.pc
  refine ⟨_, _, rfl, rfl, ?_, fun r _ => ?_, push_memorySameBut (s.addCost 4) s.pc⟩
  · rw [execRet_pc _ rfl, jump_readWord, jump_reg, regs, if_pos rfl, value, alignTarget_of_aligned aligned]
  · rw [execRet_reg _ rfl, jump_reg, jump_reg, regs, regs, if_pos rfl]
    split
    · next hsp => rw [hsp, addCost_reg, BitVec.sub_add_cancel]
    · rfl

/-! ### The statements of 60_exceptions.md -/

/-- Settles O51: the entry read at IA + 4 * message, the frame of two pushes, and the fields set after them. -/
theorem acceptanceEntersTheHandler : Obligations.AcceptanceEntersTheHandler := fun _ =>
  interruptController_handlerEntered

/-- Settles O52: RFI reads back the eight bytes that the entry is known to have stored. -/
theorem returnFromInterruptUndoesAcceptance : Obligations.ReturnFromInterruptUndoesAcceptance := by
  intro s hi he hv aligned
  have entered := interruptController_handlerEntered hi he hv
  generalize s.interruptController = t at entered ⊢
  obtain ⟨hpc, regs, flagBits, memory⟩ := returnFromInterrupt_of_handlerEntered entered 6
  exact ⟨_, rfl, hpc.trans (alignTarget_of_aligned aligned), regs, returnFromInterrupt_flag_IF _, flagBits, memory, rfl⟩

/-- Settles O53: INT's request is pending at the end of its step, with the step-mode check's message if that comes
later, and the controller takes it. -/
theorem softwareInterruptIsTakenAtOnce : Obligations.SoftwareInterruptIsTakenAtOnce := by
  intro s rn rest hs hk hd he msg hv
  have taken : exec (.int rn) s.afterDecode =
      .next (((s.afterDecode.addCost 6).setInterrupt true).setIntMsg ((s.operand rn).extractLsb' 0 8)) :=
    congrArg (fun p : Bool × State => Host.Outcome.next p.2)
      (sendInterrupt_accepted (s := s.afterDecode.addCost 6) ((s.operand rn).extractLsb' 0 8) he)
  have entered := interruptController_handlerEntered (s := ((s.afterDecode.addCost 6).setInterrupt true).setIntMsg msg)
    rfl he hv
  refine ⟨_, step_normal hs hk hd taken, handlerEntered_of_requested ?_⟩
  rw [State.endOfStep, stepModeCheck_of_requested (s := s.afterDecode.addCost 6) _ he, extract_byte_eq_ofNat]
  exact entered

/-- Settles O60: every step keeps `pc` aligned up to its controller, which misaligns it only by a vector. -/
theorem pcMisalignsOnlyByAVector : Obligations.PcMisalignsOnlyByAVector := fun _ _ h hstep =>
  (step_aligned_or_entered h hstep).imp id fun ⟨u, acts, hi, he, hv, entered⟩ =>
    ⟨u, acts, hi, he, hv, entered.1, entered⟩

end Sys2Proof.Machine
end
